-- ==== Sys2Proof/Word.lean ====
section
/-! DEFINITION. The widths of DESCORE's data (`00_scope.md` R5, R7) and zero extension (R9). -/

namespace Sys2Proof

/-- One byte (R10). -/
abbrev Byte := BitVec 8

/-- A 64-bit block, the width of `W` and `KEY` and of the host port (R5 `BLOCK_BITS`, R20). -/
abbrev Block := BitVec 64

/-- A half of a block, the width of `L` and `R` (R5 `HALF_BITS`). -/
abbrev Half := BitVec 32

/-- A round key (R5 `RK_BITS`). -/
abbrev RoundKey := BitVec 48

/-- A half of the key schedule, the width of `C` and `D` (R5 `KS_HALF_BITS`). -/
abbrev KeyHalf := BitVec 28

/-- `zext_64` of R9: zeros in the new high bits. -/
abbrev zext64 {n : Nat} (v : BitVec n) : BitVec 64 := v.setWidth 64

end Sys2Proof
end

