-- ==== Sys2Proof/Syntax.lean ====
section
/-! DEFINITION. The commands of DESCORE: one constructor per row of `spec/opcode_table.json` (`30_encoding.md` R72). -/

namespace Sys2Proof

/-- The 22 commands of R72. Every command's operands are fixed registers and buffers; only `ROUND` has a field, the
schedule index `k`, 0 to 15, all sixteen values legal (R71). -/
inductive Instr where
  /-- `CLRERR`, R183. -/
  | clrerr
  /-- `TBLCHK`, R107. -/
  | tblchk
  /-- `PERM.IP`, R99. -/
  | permIp
  /-- `PERM.FP`, R100. -/
  | permFp
  /-- `PERM.E`, R101. -/
  | permE
  /-- `PERM.P`, R102. -/
  | permP
  /-- `PERM.PC1`, R103. -/
  | permPc1
  /-- `PERM.PC2`, R104. -/
  | permPc2
  /-- `SUBST`, R112. -/
  | subst
  /-- `LDKEY.HEX`, R121. -/
  | ldkeyHex
  /-- `LDKEY.RAW`, R122. -/
  | ldkeyRaw
  /-- `KSCHED`, R125. -/
  | ksched
  /-- `ROUND k`, R141. -/
  | round (k : Fin 16)
  /-- `SPLIT`, R142. -/
  | split
  /-- `SWAP`, R143. -/
  | swap
  /-- `JOIN`, R144. -/
  | join
  /-- `ENCBLK`, R147. -/
  | encblk
  /-- `DECBLK`, R148. -/
  | decblk
  /-- `PAD`, R162. -/
  | pad
  /-- `UNPAD`, R163. -/
  | unpad
  /-- `ENCBYTES`, R164. -/
  | encbytes
  /-- `DECBYTES`, R165. -/
  | decbytes
  deriving DecidableEq, Repr

end Sys2Proof
end

