-- ==== Sys2Proof/WellFormed.lean ====
section
/-! DEFINITION. Which values written to `CMD` are well formed (`30_encoding.md` R73, R74), said by R74's list of illegal words
and not by the decoder, and what that makes a well-formed instruction. -/

namespace Sys2Proof

/-- R73 step (1): bits 63 to 8 of the written value are all zero. -/
def CommandWord.upperBitsClear (v : Block) : Bool := v.extractLsb' 8 56 == 0

/-- R74's list of the 219 illegal 8-bit words, range by range. -/
def CommandWord.reserved (b : Byte) : Bool :=
  let n := b.toNat
  n == 0x00 || (0x03 ≤ n && n ≤ 0x0F) || (0x16 ≤ n && n ≤ 0x1F) || (0x21 ≤ n && n ≤ 0x2F)
    || (0x33 ≤ n && n ≤ 0x3F) || (0x53 ≤ n && n ≤ 0x5F) || (0x62 ≤ n && n ≤ 0x6F)
    || (0x72 ≤ n && n ≤ 0x7F) || (0x82 ≤ n && n ≤ 0xFF)

/-- A value written to `CMD` that is the word of a command (R74). -/
def CommandWord.wellFormed (v : Block) : Bool :=
  CommandWord.upperBitsClear v && !CommandWord.reserved (v.setWidth 8)

/-- The field `OP` of an instruction's word, the column `OP` of R72. -/
def Instr.op : Instr → BitVec 4
  | .clrerr | .tblchk => 0x0
  | .permIp | .permFp | .permE | .permP | .permPc1 | .permPc2 => 0x1
  | .subst => 0x2
  | .ldkeyHex | .ldkeyRaw | .ksched => 0x3
  | .round _ => 0x4
  | .split | .swap | .join => 0x5
  | .encblk | .decblk => 0x6
  | .pad | .unpad => 0x7
  | .encbytes | .decbytes => 0x8

/-- The field `SEL` of an instruction's word, the column `SEL` of R72. -/
def Instr.sel : Instr → BitVec 4
  | .clrerr => 0x1
  | .tblchk => 0x2
  | .permIp => 0x0
  | .permFp => 0x1
  | .permE => 0x2
  | .permP => 0x3
  | .permPc1 => 0x4
  | .permPc2 => 0x5
  | .subst => 0x0
  | .ldkeyHex => 0x0
  | .ldkeyRaw => 0x1
  | .ksched => 0x2
  | .round k => BitVec.ofNat 4 k.val
  | .split => 0x0
  | .swap => 0x1
  | .join => 0x2
  | .encblk => 0x0
  | .decblk => 0x1
  | .pad => 0x0
  | .unpad => 0x1
  | .encbytes => 0x0
  | .decbytes => 0x1

/-- An instruction is well formed when `OP ‖ SEL` (R70) is a legal command word. -/
def Instr.wellFormed (i : Instr) : Bool :=
  CommandWord.wellFormed (zext64 (i.op ++ i.sel))

end Sys2Proof
end

