-- ==== Sys2Proof/Decode.lean ====
section
/-! DEFINITION. The decoder of the values written to `CMD` (`30_encoding.md` R73), total, rejecting by name; the encoder
(R70); and the form in which the host asks the decoder. -/

namespace Sys2Proof

/-- Why a value written to `CMD` is no command (R73). Either way it is an illegal word (R74). -/
inductive DecodeError where
  /-- Step (1): a bit above bit 7 is set. -/
  | upperBitsSet
  /-- Step (3): the low byte is none of the 37 command words. -/
  | reservedWord
  deriving DecidableEq, Repr

/-- R73 step (2): the table of R72 by its column "word". `0x40` to `0x4F` are `ROUND k` with `k = CMD[3:0]`. -/
def decodeByte (b : Byte) : Except DecodeError Instr :=
  if b.extractLsb' 4 4 = 0x4 then .ok (.round ⟨(b.extractLsb' 0 4).toNat, (b.extractLsb' 0 4).isLt⟩)
  else match b.toNat with
    | 0x01 => .ok .clrerr
    | 0x02 => .ok .tblchk
    | 0x10 => .ok .permIp
    | 0x11 => .ok .permFp
    | 0x12 => .ok .permE
    | 0x13 => .ok .permP
    | 0x14 => .ok .permPc1
    | 0x15 => .ok .permPc2
    | 0x20 => .ok .subst
    | 0x30 => .ok .ldkeyHex
    | 0x31 => .ok .ldkeyRaw
    | 0x32 => .ok .ksched
    | 0x50 => .ok .split
    | 0x51 => .ok .swap
    | 0x52 => .ok .join
    | 0x60 => .ok .encblk
    | 0x61 => .ok .decblk
    | 0x70 => .ok .pad
    | 0x71 => .ok .unpad
    | 0x80 => .ok .encbytes
    | 0x81 => .ok .decbytes
    | _ => .error .reservedWord

/-- The decoder of R73, total on the 64-bit values a host can write to `CMD`. -/
def decode (v : Block) : Except DecodeError Instr :=
  if v.extractLsb' 8 56 = 0 then decodeByte (v.setWidth 8) else .error .upperBitsSet

/-- The 8-bit command word of an instruction, format `C8`: `OP` in bits 7:4, `SEL` in bits 3:0 (R70). -/
def encode (i : Instr) : Byte := i.op ++ i.sel

/-- The value a host writes to `CMD` to execute an instruction: its word, zero-extended (R29, R75). -/
def commandWord (i : Instr) : Block := zext64 (encode i)

/-- The 64-bit value whose low `nbits` bits are those of `w` and whose other bits are zero. -/
def tableWord (nbits w : Nat) : Block := BitVec.ofNat 64 (w % 2 ^ nbits)

/-- The instruction the decoder reads from a word numbered as `spec/opcode_table.json` numbers it: DESCORE's words are
one byte, so bit 0 of the table is bit 0 of the value written to `CMD` (R70). -/
def decodeTableWord (nbits w : Nat) : Option Instr := (decode (tableWord nbits w)).toOption

end Sys2Proof
end

