-- ==== Sys2Proof/Config.lean ====
section
/-! DEFINITION. What an implementation fixes and what the spec leaves free: the three buffer spaces with
their fixed parameters, the legal values of `BUF_MAX`, and the value of a byte that the spec calls unspecified. -/

namespace Sys2Proof

/-- The three byte-addressed buffers, each an address space of its own (`20_memory.md` R50). -/
inductive Space where
  | kbuf
  | ibuf
  | obuf
  deriving DecidableEq, Repr

/-- `BUF_MAX`, the open parameter of R5, counted in 8-byte blocks less one: `BUF_MAX` is a multiple of 8 with
8 ≤ `BUF_MAX` ≤ 2^32 − 16, so `BUF_MAX / 8 − 1` is any number from 0 to 536870909 and no other. -/
abbrev Config.BufBlocks := Fin 536870910

/-- `BUF_MAX` in bytes. -/
def Config.bufMax (b : Config.BufBlocks) : Nat := 8 * (b.val + 1)

/-- `KBUF_MAX`, the capacity of `KBUF` (R5). -/
def Config.kbufMax : Nat := 32

/-- FREE VALUE (log entry 3). What a byte of buffer `space` at an address holds that nothing has written since
the buffer was voided for the `voids`-th time (R33, R51, R193; U1 to U3: "any value"). It has no body: nothing can be
proved of it, but that reading the byte again gives the same value (R53). -/
opaque Config.unspecifiedByte (space : Space) (voids address : Nat) : Byte

end Sys2Proof
end

