-- ==== Sys2Proof/Machine/State.lean ====
section
/-! DEFINITION. The machine's state (`10_state.md` R20, `20_memory.md` R50), as plain data; the reasons a step can stop;
the state after `Reset` (`10_state.md` R33, `70_reset_and_hazards.md` R220). -/

namespace Sys2Proof.Machine

/-- The register `ERR`: exactly the ten legal values (`60_exceptions.md` R191, U6), no fault recorded or one of the nine
(`CODE`, `SUB`) pairs. `Err.byte` gives the 8 bits a host reads. -/
inductive Err where
  /-- 0x00: no fault is recorded. -/
  | clear
  /-- 0x11 `InvalidKey(LENGTH)`. -/
  | invalidKeyLength
  /-- 0x21 `InvalidKey(FORMAT)`. -/
  | invalidKeyFormat
  /-- 0x12 `MalformedCiphertext(LENGTH)`. -/
  | malformedLength
  /-- 0x22 `MalformedCiphertext(PAD)`. -/
  | malformedPad
  /-- 0x32 `MalformedCiphertext(EMPTY)`. -/
  | malformedEmpty
  /-- 0x04 `ConfigurationError`. -/
  | configurationError
  /-- 0x15 `KeyNotLoaded(KEY)`. -/
  | keyNotLoaded
  /-- 0x25 `KeyNotLoaded(SCHEDULE)`. -/
  | scheduleNotLoaded
  /-- 0x06 `IllegalCommand`. -/
  | illegalCommand
  deriving DecidableEq, Repr

/-- Bytes by address, in one canonical form: addresses strictly rising (`memoryWf`). An address that is not listed has no
value of its own: nothing has written it since its buffer was voided. -/
abbrev Memory := List Host.Cell

/-- A byte buffer: the bytes written since its bytes last became unspecified, and how often that has happened
(the index of the free value an unwritten byte has, log entry 3). -/
structure Buffer where
  cells : Memory
  voids : Nat
  deriving DecidableEq, Repr

/-- The five host transactions (`45_control.md` R180). -/
inductive Transaction where
  /-- `Reset`. -/
  | reset
  /-- `WriteReg(n, v)`: register number, value. -/
  | writeReg (n : BitVec 8) (v : Block)
  /-- `ReadReg(n)`. -/
  | readReg (n : BitVec 8)
  /-- `MemWrite(SPACE:a, n, B)`. -/
  | memWrite (space : Space) (a n : Nat) (bytes : List Byte)
  /-- `MemRead(SPACE:a, n)`. -/
  | memRead (space : Space) (a n : Nat)
  deriving DecidableEq, Repr

/-- What a transaction returns to the host (R180, the column "returns"). -/
inductive Reply where
  | nothing
  | value (v : Block)
  | bytes (bs : List Byte)
  deriving DecidableEq, Repr

/-- The machine's state. The fields down to `obuf` are the spec's complete architectural state (R20); the last three
are the model's own: the open parameter, the host's transactions still to be performed, and the last reply. -/
structure State where
  /-- `W`, the work register (R21). -/
  w : Block
  /-- `L`, the left half (R22). -/
  l : Half
  /-- `R`, the right half (R22). -/
  r : Half
  /-- `KEY`, the master key as loaded (R23). -/
  key : Block
  /-- `C`, key-schedule half (R24). -/
  c : KeyHalf
  /-- `D`, key-schedule half (R24). -/
  d : KeyHalf
  /-- `RK[0..15]`, the round-key file (R25). -/
  rk : Vector RoundKey 16
  /-- `STATUS.KV`, key valid (R27). -/
  kv : Bool
  /-- `STATUS.RKV`, round keys valid (R27). -/
  rkv : Bool
  /-- `ERR` (R28). -/
  err : Err
  /-- `KLEN` (R30). -/
  klen : BitVec 32
  /-- `ILEN` (R30). -/
  ilen : BitVec 32
  /-- `OLEN` (R30). -/
  olen : BitVec 32
  /-- `KBUF` (R50). -/
  kbuf : Buffer
  /-- `IBUF` (R50). -/
  ibuf : Buffer
  /-- `OBUF` (R50). -/
  obuf : Buffer
  /-- The open parameter `BUF_MAX` (R5), in 8-byte blocks less one (log entry 2). No step changes it. -/
  bufBlocks : Config.BufBlocks
  /-- The host transactions still to be performed, the next one first (R180, log entry 1). -/
  pending : List Transaction
  /-- What the transaction performed last returned to the host (R180, log entry 1). -/
  reply : Reply
  deriving DecidableEq, Repr

/-- A step never stops with a fault: DESCORE's faults are defined transitions that record a code in `ERR` (R193), and no
transaction is ever stuck (R202: "Stuck: never"). So this type has no constructor. SAFE: nothing is claimed of a stop. -/
inductive Fault where
  deriving DecidableEq, Repr

/-- Why a step has no meaning. -/
inductive Refusal where
  /-- Raised by `exec` for an instruction the model gives no meaning yet. Safe. No arm raises it. -/
  | notModelled (mnemonic : String)
  /-- Raised by `MemRead` and `MemWrite` when `a + n` is above the capacity of the buffer (R53, R202). Safe. -/
  | outsideBuffer (space : Space)
  /-- Raised by `MemWrite` to `OBUF`, which the host may only read (R53, R182). Safe. -/
  | bufferNotWritable
  /-- Raised by `MemWrite` when the byte sequence is not `n` bytes long (R182). Safe. -/
  | byteCountMismatch
  deriving DecidableEq, Repr

/-- What the table check of `Reset` leaves in `ERR` (R33, R220). -/
def resetErr (t : Tables) : Err := if tablesValid t then .clear else .configurationError

/-- A buffer that nothing has been written to. -/
def Buffer.fresh : Buffer where
  cells := []
  voids := 0

/-- The machine after `Reset` (R33): every register 0, no flag set, every buffer byte unspecified; no transaction pending.
`bufBlocks` is `BUF_MAX` = 64, the value program P7 takes (log entry 2). -/
def State.reset : State where
  w := 0
  l := 0
  r := 0
  key := 0
  c := 0
  d := 0
  rk := Vector.replicate 16 0
  kv := false
  rkv := false
  err := resetErr theTables
  klen := 0
  ilen := 0
  olen := 0
  kbuf := Buffer.fresh
  ibuf := Buffer.fresh
  obuf := Buffer.fresh
  bufBlocks := 7
  pending := []
  reply := .nothing

end Sys2Proof.Machine
end

