-- ==== Sys2Proof/Machine/Flags.lean ====
section
/-! DEFINITION. The flags and the fields of `ERR`: `CODE` and `SUB` (`60_exceptions.md` R190, R191), the byte a host reads
(`10_state.md` R28), `ERRF` and `STATUS` (R27), and what the key commands do to `KV` and `RKV`. -/

namespace Sys2Proof.Machine

/-- `CODE`, `ERR[2:0]` (R190). -/
def Err.code : Err → BitVec 3
  | .clear => 0
  | .invalidKeyLength | .invalidKeyFormat => 1
  | .malformedLength | .malformedPad | .malformedEmpty => 2
  | .configurationError => 4
  | .keyNotLoaded | .scheduleNotLoaded => 5
  | .illegalCommand => 6

/-- `SUB`, `ERR[7:4]` (R191). -/
def Err.sub : Err → BitVec 4
  | .clear | .configurationError | .illegalCommand => 0
  | .invalidKeyLength | .malformedLength | .keyNotLoaded => 1
  | .invalidKeyFormat | .malformedPad | .scheduleNotLoaded => 2
  | .malformedEmpty => 3

/-- The register `ERR` as bits, `SUB ‖ 0 ‖ CODE` (R28). -/
def Err.byte (e : Err) : Byte := e.sub ++ 0#1 ++ e.code

/-- `STATUS.ERRF`: 1 exactly when `ERR[2:0]` is not zero (R27). -/
def State.errf (s : State) : Bool := s.err.code != 0

/-- The register `STATUS`, `00000 ‖ ERRF ‖ RKV ‖ KV` (R27, R180). -/
def State.status (s : State) : Byte :=
  0#5 ++ BitVec.ofBool s.errf ++ BitVec.ofBool s.rkv ++ BitVec.ofBool s.kv

/-- A successful `LDKEY`: the key is written, `KV` set, `RKV` cleared (R121, R122). -/
def State.loadKey (key : Block) (s : State) : State := { s with key := key, kv := true, rkv := false }

end Sys2Proof.Machine
end

