-- ==== Sys2Proof/Machine/Ops.lean ====
section
/-! DEFINITION. The named operations on memory and on the state: reading and writing bytes (`00_scope.md` R11), voiding a buffer,
fault entry (`60_exceptions.md` R193) with its one return (`45_control.md` R183), and how a command starts (R181). -/

namespace Sys2Proof.Machine

/-- What a step answers. -/
abbrev Outcome := Host.Outcome State Fault Refusal

/-- The canonical form of a memory: addresses strictly rising. -/
def memoryWf : Memory → Bool
  | [] => true
  | [_] => true
  | x :: y :: rest => x.1 < y.1 && memoryWf (y :: rest)

/-- The byte written at an address, none when nothing has written it. -/
def memoryRead : Memory → Nat → Option Byte
  | [], _ => none
  | x :: rest, a => if x.1 = a then some x.2 else memoryRead rest a

/-- Writes one byte, keeping the canonical form. -/
def memoryWrite : Memory → Nat → Byte → Memory
  | [], a, b => [(a, b)]
  | x :: rest, a, b =>
    if a < x.1 then (a, b) :: x :: rest
    else if a = x.1 then (a, b) :: rest
    else x :: memoryWrite rest a b

/-- Writes a byte sequence from address `a` upward (R11 `MemWrite`). -/
def memoryWriteBytes : Memory → Nat → List Byte → Memory
  | m, _, [] => m
  | m, a, b :: bs => memoryWriteBytes (memoryWrite m a b) (a + 1) bs

/-- The byte a buffer holds at an address: the one written there, else the free value (log entry 3). -/
def bufferRead (space : Space) (buf : Buffer) (a : Nat) : Byte :=
  match memoryRead buf.cells a with
  | some b => b
  | none => Config.unspecifiedByte space buf.voids a

/-- The `n` bytes from address `a` (R11 `MemRead`). -/
def bufferReadBytes (space : Space) (buf : Buffer) (a n : Nat) : List Byte :=
  (List.range n).map fun i => bufferRead space buf (a + i)

/-- Writes a byte sequence into a buffer from address `a`. -/
def bufferWriteBytes (buf : Buffer) (a : Nat) (bs : List Byte) : Buffer :=
  { buf with cells := memoryWriteBytes buf.cells a bs }

/-- Every byte of the buffer becomes unspecified (R193, R220). -/
def bufferVoid (buf : Buffer) : Buffer where
  cells := []
  voids := buf.voids + 1

/-- `BUF_MAX` of this machine (R5). -/
def State.bufMax (s : State) : Nat := Config.bufMax s.bufBlocks

/-- The capacity of a buffer in bytes (R50). -/
def State.capacity (s : State) : Space → Nat
  | .kbuf => Config.kbufMax
  | .ibuf => s.bufMax
  | .obuf => s.bufMax + 8

/-- The buffer of a space. -/
def State.buffer (s : State) : Space → Buffer
  | .kbuf => s.kbuf
  | .ibuf => s.ibuf
  | .obuf => s.obuf

/-- A successful stream command's output (R51, R162 to R165): the bytes stand in `OBUF` from address 0, the bytes beyond
are unspecified, and `OLEN` is their number. -/
def State.output (bs : List Byte) (s : State) : State :=
  { s with obuf := bufferWriteBytes (bufferVoid s.obuf) 0 bs, olen := BitVec.ofNat 32 bs.length }

/-- TAKING A FAULT (R193): `ERR` records code and sub-code, `OLEN` is zeroed, `OBUF` becomes unspecified, and nothing else
changes; nothing is saved and control goes nowhere. -/
def State.raise (e : Err) (s : State) : State :=
  { s with err := e, olen := 0, obuf := bufferVoid s.obuf }

/-- The return from a fault (R183): `ERR` is cleared, but code 4 stays. -/
def State.clearError (s : State) : State :=
  if s.err.code = 4 then s else { s with err := .clear }

/-- Command execution, R181 step (1) and R194: while a fault is recorded the command does nothing. Every command but
`CLRERR`, and every illegal word, goes through this. -/
def unlessFaulted (body : State → State) (s : State) : Outcome :=
  .next (if s.errf then s else body s)

/-- What an illegal word does (R74): fault entry with `IllegalCommand`, unless a fault is recorded. -/
def illegalWord (s : State) : Outcome := unlessFaulted (State.raise .illegalCommand) s

/-- The test of a command that needs the round keys (R195 (3)): `KeyNotLoaded(SCHEDULE)` when `RKV` is 0. -/
def withSchedule (body : State → State) (s : State) : State :=
  if s.rkv then body s else s.raise .scheduleNotLoaded

/-- The table check of `TBLCHK` (R107) for a set of tables. -/
def tableCheck (t : Tables) (s : State) : State :=
  if tablesValid t then s else s.raise .configurationError

/-- The transaction `Reset` (R220): the values of R33, every buffer byte unspecified, `ERR` from the table check. -/
def State.resetCore (t : Tables) (s : State) : State :=
  { s with
    w := 0, l := 0, r := 0, key := 0, c := 0, d := 0, rk := Vector.replicate 16 0
    kv := false, rkv := false, klen := 0, ilen := 0, olen := 0
    kbuf := bufferVoid s.kbuf, ibuf := bufferVoid s.ibuf, obuf := bufferVoid s.obuf
    err := resetErr t }

end Sys2Proof.Machine
end

