-- ==== Sys2Proof/Machine/Control.lean ====
section
/-! DEFINITION. The control commands: `CLRERR` (`45_control.md` R183) and `TBLCHK` (`40_permute.md` R107). -/

namespace Sys2Proof.Machine

/-- `CLRERR` (R183): the only command that runs while a fault is recorded. -/
def execClrerr (s : State) : Outcome := .next s.clearError

/-- `TBLCHK` (R107). -/
def execTblchk (s : State) : Outcome := unlessFaulted (tableCheck theTables) s

end Sys2Proof.Machine
end

