-- ==== Sys2Proof/Machine/Bits.lean ====
section
/-! DEFINITION. The pure operations on bit vectors and byte sequences: `permute` (`40_permute.md` R90), `rotl28` (`00_scope.md` R9),
`be64` and `bytes8` (R10), and the walk over the 8-byte chunks of a stream (`20_memory.md` R55). -/

namespace Sys2Proof.Machine

/-- `permute(source, N, T)` with `m` output bits (R90): output bit `i` is source bit `T[i] - 1`, both counted from 0 at the
most significant end (R7(c)). -/
def permute {n : Nat} (m : Nat) (t : List Nat) (source : BitVec n) : BitVec m :=
  (BitVec.ofBoolListBE (t.map fun p => source.getMsbD (p - 1))).setWidth m

/-- `rotl28(x, s)`, the left rotation of a 28-bit vector (R9). -/
def rotl28 (x : KeyHalf) (s : Nat) : KeyHalf := x <<< s ||| x >>> (28 - s)

/-- `be64(B)`: byte 0 is the most significant (R10). -/
def be64 (bs : List Byte) : Block := bs.foldl (fun acc b => acc <<< 8 ||| zext64 b) 0

/-- `bytes8(v)`, the eight bytes of a block, the most significant first: byte `j` is `v[63 - 8j : 56 - 8j]` (R10). -/
def bytes8 (v : Block) : List Byte := (List.range 8).map fun j => v.extractLsb' (56 - 8 * j) 8

/-- The first `m` chunks of a stream, each turned into a block, mapped by `g` and turned back into bytes, concatenated in
order (R54, R55): the chunk loop of R164 and R165. -/
def mapChunks (g : Block → Block) : Nat → List Byte → List Byte
  | 0, _ => []
  | m + 1, s => bytes8 (g (be64 (s.take 8))) ++ mapChunks g m (s.drop 8)

end Sys2Proof.Machine
end

