-- ==== Sys2Proof/Machine/Cipher.lean ====
section
/-! DEFINITION. The cipher as pure functions: `substitute` (`41_substitute.md` R110), the key schedule (`42_key_schedule.md` R124), the
round function `f` (`43_round_block.md` R140) and the block transform (R145, R146). They read nothing but their arguments and
the constant tables. -/

namespace Sys2Proof.Machine

/-- `S[i][row][col]` as a 4-bit vector (R110, R111). -/
def sboxEntry (i row col : Nat) : BitVec 4 :=
  BitVec.ofNat 4 (((sboxes.getD i []).getD row []).getD col 0)

/-- Group `g_i` of a 48-bit vector, the slice `x[47 - 6i : 42 - 6i]` (R110). -/
def sboxGroup (x : BitVec 48) (i : Nat) : BitVec 6 := x.extractLsb' (42 - 6 * i) 6

/-- `v_i` of R110: the row is the outer bits `g[5] ‖ g[0]`, the column the inner bits `g[4:1]`. -/
def sboxValue (x : BitVec 48) (i : Nat) : BitVec 4 :=
  let g := sboxGroup x i
  sboxEntry i (BitVec.ofBool (g.getLsbD 5) ++ BitVec.ofBool (g.getLsbD 0)).toNat (g.extractLsb' 1 4).toNat

/-- `substitute(x) = v_0 ‖ v_1 ‖ ... ‖ v_7` (R110). -/
def substitute (x : BitVec 48) : Half :=
  sboxValue x 0 ++ sboxValue x 1 ++ sboxValue x 2 ++ sboxValue x 3 ++ sboxValue x 4 ++ sboxValue x 5
    ++ sboxValue x 6 ++ sboxValue x 7

/-- The halves `(C_n, D_n)` of the key schedule after `n` rotations (R124): `C_0 ‖ D_0 = permute(key, 64, PC1)`, then both
rotate left by `SHIFTS[r]` in round `r`, cumulatively. -/
def keyHalves (key : Block) : Nat → KeyHalf × KeyHalf
  | 0 =>
    let cd : BitVec 56 := permute 56 tablePc1 key
    (cd.extractLsb' 28 28, cd.extractLsb' 0 28)
  | r + 1 =>
    let h := keyHalves key r
    (rotl28 h.1 (shifts.getD r 0), rotl28 h.2 (shifts.getD r 0))

/-- `K[r] = permute(C_(r+1) ‖ D_(r+1), 56, PC2)`, made from the halves just rotated (R124, `90_conflicts.md` C2). -/
def roundKey (key : Block) (r : Nat) : RoundKey :=
  permute 48 tablePc2 ((keyHalves key (r + 1)).1 ++ (keyHalves key (r + 1)).2)

/-- `deriveRoundKeys(key)`, the sequence `K[0..15]` (R124). -/
def deriveRoundKeys (key : Block) : Vector RoundKey 16 :=
  #v[roundKey key 0, roundKey key 1, roundKey key 2, roundKey key 3, roundKey key 4, roundKey key 5,
    roundKey key 6, roundKey key 7, roundKey key 8, roundKey key 9, roundKey key 10, roundKey key 11,
    roundKey key 12, roundKey key 13, roundKey key 14, roundKey key 15]

/-- `f(Rv, Kv) = permute(substitute(permute(Rv, 32, E) xor Kv), 32, P)` (R140). -/
def roundF (rv : Half) (kv : RoundKey) : Half :=
  permute 32 tableP (substitute (permute 48 tableE rv ^^^ kv))

/-- The rounds of R145 with the given round keys in order: `l <- l xor f(r, K)`, then a swap after every round but
the last. -/
def feistelRounds : List RoundKey → Half × Half → Half × Half
  | [], h => h
  | [k], h => (h.1 ^^^ roundF h.2 k, h.2)
  | k :: k' :: ks, h => feistelRounds (k' :: ks) (h.2, h.1 ^^^ roundF h.2 k)

/-- What `feistel16` returns (R145): the result and the final halves `(Lf, Rf)`. -/
structure FeistelResult where
  result : Block
  lf : Half
  rf : Half
  deriving DecidableEq, Repr

/-- `feistel16(x, K)` (R145): IP, split, the rounds, the preoutput `l ‖ r`, FP (`90_conflicts.md` C1). -/
def feistel16 (x : Block) (ks : List RoundKey) : FeistelResult :=
  let y : Block := permute 64 tableIp x
  let h := feistelRounds ks (y.extractLsb' 32 32, y.extractLsb' 0 32)
  { result := permute 64 tableFp (h.1 ++ h.2), lf := h.1, rf := h.2 }

/-- The round keys in the order of encryption, `RK[0]` first (R146). -/
def forwardKeys (rk : Vector RoundKey 16) : List RoundKey := rk.toList

/-- The round keys in the order of decryption, `RK[15]` first (R146). -/
def backwardKeys (rk : Vector RoundKey 16) : List RoundKey := rk.toList.reverse

/-- `DESenc(x, K)` (R146). -/
def desEnc (rk : Vector RoundKey 16) (x : Block) : Block := (feistel16 x (forwardKeys rk)).result

/-- `DESdec(x, K)` (R146). -/
def desDec (rk : Vector RoundKey 16) (x : Block) : Block := (feistel16 x (backwardKeys rk)).result

end Sys2Proof.Machine
end

