-- ==== Sys2Proof/Machine/Operands.lean ====
section
/-! DEFINITION. The operand forms: narrow operands and results in `W` (`10_state.md` R21), the key bytes and the input stream
(`00_scope.md` R11), and the registers by number with their access rights (`10_state.md` R20, R29 to R31; `45_control.md` R180). -/

namespace Sys2Proof.Machine

/-- An `n`-bit operand, the low bits of `W` (R21). -/
def State.operand (n : Nat) (s : State) : BitVec n := s.w.setWidth n

/-- A result, zero-extended into `W` (R21). -/
def State.setResult {n : Nat} (v : BitVec n) (s : State) : State := { s with w := zext64 v }

/-- `KIN = MemRead(KBUF:0, KLEN)` (R11, R51). -/
def State.kin (s : State) : List Byte := bufferReadBytes .kbuf s.kbuf 0 s.klen.toNat

/-- `IN = MemRead(IBUF:0, ILEN)` (R11, R51). -/
def State.input (s : State) : List Byte := bufferReadBytes .ibuf s.ibuf 0 s.ilen.toNat

/-- The registers of R20, and the unassigned numbers. -/
inductive Reg where
  | w
  | l
  | r
  | key
  | c
  | d
  | rk (i : Fin 16)
  | cmd
  | status
  | err
  | klen
  | ilen
  | olen
  | unassigned
  deriving DecidableEq, Repr

/-- The register a number names (R20); 0x06 to 0x0F and 0x26 and above are unassigned (R31). -/
def regOfNumber (n : BitVec 8) : Reg :=
  if n.extractLsb' 4 4 = 0x1 then .rk ⟨(n.extractLsb' 0 4).toNat, (n.extractLsb' 0 4).isLt⟩
  else match n.toNat with
    | 0x00 => .w
    | 0x01 => .l
    | 0x02 => .r
    | 0x03 => .key
    | 0x04 => .c
    | 0x05 => .d
    | 0x20 => .cmd
    | 0x21 => .status
    | 0x22 => .err
    | 0x23 => .klen
    | 0x24 => .ilen
    | 0x25 => .olen
    | _ => .unassigned

/-- What `ReadReg` returns (R180): the register zero-extended; `CMD` and unassigned numbers read as 0 (R29, R31). -/
def State.readReg (s : State) : Reg → Block
  | .w => s.w
  | .l => zext64 s.l
  | .r => zext64 s.r
  | .key => s.key
  | .c => zext64 s.c
  | .d => zext64 s.d
  | .rk i => zext64 s.rk[i]
  | .status => zext64 s.status
  | .err => zext64 s.err.byte
  | .klen => zext64 s.klen
  | .ilen => zext64 s.ilen
  | .olen => zext64 s.olen
  | .cmd | .unassigned => 0

/-- What `WriteReg` does to any register but `CMD` (R180): `W`, `L`, `R` take the low bits; `KLEN` and `ILEN` take a value in
range and ignore another (R30); a read-only register or an unassigned number ignores the write (R31). `CMD` is not
written here: its write executes a command. -/
def State.writeReg (s : State) (v : Block) : Reg → State
  | .w => { s with w := v }
  | .l => { s with l := v.setWidth 32 }
  | .r => { s with r := v.setWidth 32 }
  | .klen => if v.toNat ≤ Config.kbufMax then { s with klen := v.setWidth 32 } else s
  | .ilen => if v.toNat ≤ s.bufMax then { s with ilen := v.setWidth 32 } else s
  | .key | .c | .d | .rk _ | .cmd | .status | .err | .olen | .unassigned => s

end Sys2Proof.Machine
end

