-- ==== Sys2Proof/Machine/Text.lean ====
section
/-! DEFINITION. The pure functions on byte sequences: hex digits (`42_key_schedule.md` R120, R121), `pad8` and `unpad8`
(`44_padding_bytes.md` R160, R161). -/

namespace Sys2Proof.Machine

/-- The value of a hex digit, or none when the byte is not one (R120). -/
def hexDigit (b : Byte) : Option Nat :=
  let n := b.toNat
  if 0x30 ≤ n ∧ n ≤ 0x39 then some (n - 0x30)
  else if 0x41 ≤ n ∧ n ≤ 0x46 then some (n - 0x41 + 10)
  else if 0x61 ≤ n ∧ n ≤ 0x66 then some (n - 0x61 + 10)
  else none

/-- The digits of a hex text, or none when some byte is not a hex digit (R121, the `FORMAT` test). -/
def hexDigits : List Byte → Option (List Nat)
  | [] => some []
  | b :: bs =>
    match hexDigit b, hexDigits bs with
    | some x, some xs => some (x :: xs)
    | _, _ => none

/-- The sum over `j` of `digit(j) * 16^(n - 1 - j)` for `n` digits, the first the most significant (R121). -/
def hexValue (ds : List Nat) : Nat := ds.foldl (fun acc x => 16 * acc + x) 0

/-- `k = 8 - (n mod 8)`, 1 to 8 (R160). -/
def padCount (n : Nat) : Nat := 8 - n % 8

/-- `pad8(S) = S ++ rep(k, k)` (R160). -/
def pad8 (s : List Byte) : List Byte :=
  s ++ List.replicate (padCount s.length) (BitVec.ofNat 8 (padCount s.length))

/-- `unpad8(S)` (R161), in its order: `LENGTH`, `EMPTY`, `PAD`, else the stream less its last `k` bytes. -/
def unpad8 (s : List Byte) : Except Err (List Byte) :=
  if s.length % 8 ≠ 0 then .error .malformedLength
  else if s.length = 0 then .error .malformedEmpty
  else
    let k := (s.getD (s.length - 1) 0).toNat
    if k < 1 ∨ 8 < k then .error .malformedPad else .ok (s.take (s.length - k))

end Sys2Proof.Machine
end

