-- ==== Sys2Proof/Machine/Key.lean ====
section
/-! DEFINITION. The key commands: `LDKEY.HEX`, `LDKEY.RAW`, `KSCHED` (`42_key_schedule.md` R121, R122, R125). -/

namespace Sys2Proof.Machine

/-- `LDKEY.HEX` (R121): the length is tested first, then the digits, then the key is written. -/
def execLdkeyHex (s : State) : Outcome :=
  unlessFaulted (fun s =>
    if s.klen ≠ 16 then s.raise .invalidKeyLength
    else match hexDigits s.kin with
      | none => s.raise .invalidKeyFormat
      | some ds => s.loadKey (BitVec.ofNat 64 (hexValue ds))) s

/-- `LDKEY.RAW` (R122). -/
def execLdkeyRaw (s : State) : Outcome :=
  unlessFaulted (fun s =>
    if s.klen ≠ 8 then s.raise .invalidKeyLength else s.loadKey (be64 s.kin)) s

/-- `KSCHED` (R125): all sixteen round keys, the halves after the sixteenth rotation, and `RKV`. -/
def execKsched (s : State) : Outcome :=
  unlessFaulted (fun s =>
    if s.kv then
      { s with
        rk := deriveRoundKeys s.key
        c := (keyHalves s.key 16).1
        d := (keyHalves s.key 16).2
        rkv := true }
    else s.raise .keyNotLoaded) s

end Sys2Proof.Machine
end

