-- ==== Sys2Proof/Machine/Primitive.lean ====
section
/-! DEFINITION. The commands on `W` alone: the six `PERM.t` (`40_permute.md` R98 to R104) and `SUBST` (`41_substitute.md` R112). -/

namespace Sys2Proof.Machine

/-- The template of the six `PERM.t` (R98): `W <- zext_64(permute(W[n-1:0], n, T))`, `m` output bits. -/
def permuteW (n m : Nat) (t : List Nat) (s : State) : Outcome :=
  unlessFaulted (fun s => s.setResult (permute m t (s.operand n))) s

/-- `PERM.IP` (R99). -/
def execPermIp (s : State) : Outcome := permuteW 64 64 tableIp s

/-- `PERM.FP` (R100). -/
def execPermFp (s : State) : Outcome := permuteW 64 64 tableFp s

/-- `PERM.E` (R101). -/
def execPermE (s : State) : Outcome := permuteW 32 48 tableE s

/-- `PERM.P` (R102). -/
def execPermP (s : State) : Outcome := permuteW 32 32 tableP s

/-- `PERM.PC1` (R103). -/
def execPermPc1 (s : State) : Outcome := permuteW 64 56 tablePc1 s

/-- `PERM.PC2` (R104). -/
def execPermPc2 (s : State) : Outcome := permuteW 56 48 tablePc2 s

/-- `SUBST` (R112): `W <- zext_64(substitute(W[47:0]))`. -/
def execSubst (s : State) : Outcome :=
  unlessFaulted (fun s => s.setResult (substitute (s.operand 48))) s

end Sys2Proof.Machine
end

