-- ==== Sys2Proof/Machine/Rounds.lean ====
section
/-! DEFINITION. The round and block commands: `ROUND k`, `SPLIT`, `SWAP`, `JOIN`, `ENCBLK`, `DECBLK` (`43_round_block.md`
R141 to R148). -/

namespace Sys2Proof.Machine

/-- `ROUND k` (R141): `L <- L xor f(R, RK[k])`, no swap. -/
def execRound (k : Fin 16) (s : State) : Outcome :=
  unlessFaulted (withSchedule fun s => { s with l := s.l ^^^ roundF s.r s.rk[k] }) s

/-- `SPLIT` (R142): `(L, R) <- (W[63:32], W[31:0])`. -/
def execSplit (s : State) : Outcome :=
  unlessFaulted (fun s => { s with l := s.w.extractLsb' 32 32, r := s.w.extractLsb' 0 32 }) s

/-- `SWAP` (R143): `(L, R) <- (R, L)`, both old values read first. -/
def execSwap (s : State) : Outcome :=
  unlessFaulted (fun s => { s with l := s.r, r := s.l }) s

/-- `JOIN` (R144): `W <- L ‖ R`. -/
def execJoin (s : State) : Outcome :=
  unlessFaulted (fun s => { s with w := s.l ++ s.r }) s

/-- What the block commands write (R147, R148): the result in `W` and the halves after the sixteenth round in `L`, `R`. -/
def State.setBlock (f : FeistelResult) (s : State) : State := { s with w := f.result, l := f.lf, r := f.rf }

/-- `ENCBLK` (R147). -/
def execEncblk (s : State) : Outcome :=
  unlessFaulted (withSchedule fun s => s.setBlock (feistel16 s.w (forwardKeys s.rk))) s

/-- `DECBLK` (R148). -/
def execDecblk (s : State) : Outcome :=
  unlessFaulted (withSchedule fun s => s.setBlock (feistel16 s.w (backwardKeys s.rk))) s

end Sys2Proof.Machine
end

