-- ==== Sys2Proof/Machine/Stream.lean ====
section
/-! DEFINITION. The byte-stream commands: `PAD`, `UNPAD`, `ENCBYTES`, `DECBYTES` (`44_padding_bytes.md` R162 to R166). -/

namespace Sys2Proof.Machine

/-- The end of `UNPAD` and `DECBYTES`: the unpadded stream goes out, or its failure is raised (R163, R165). -/
def State.outputUnpadded (bs : List Byte) (s : State) : State :=
  match unpad8 bs with
  | .error e => s.raise e
  | .ok u => s.output u

/-- The stream `ENCBYTES` puts out for a stream (R164): padded, then each chunk encrypted. -/
def encryptStream (rk : Vector RoundKey 16) (bs : List Byte) : List Byte :=
  mapChunks (desEnc rk) ((pad8 bs).length / 8) (pad8 bs)

/-- The stream `Pfull` of `DECBYTES` (R165): each chunk decrypted, not yet unpadded. -/
def decryptStream (rk : Vector RoundKey 16) (bs : List Byte) : List Byte :=
  mapChunks (desDec rk) (bs.length / 8) bs

/-- `PAD` (R162). -/
def execPad (s : State) : Outcome := unlessFaulted (fun s => s.output (pad8 s.input)) s

/-- `UNPAD` (R163). -/
def execUnpad (s : State) : Outcome := unlessFaulted (fun s => s.outputUnpadded s.input) s

/-- `ENCBYTES` (R164). -/
def execEncbytes (s : State) : Outcome :=
  unlessFaulted (withSchedule fun s => s.output (encryptStream s.rk s.input)) s

/-- `DECBYTES` (R165): the schedule, then `LENGTH`, then `EMPTY`, before any block is decrypted; then `unpad8` of the
decrypted stream. -/
def execDecbytes (s : State) : Outcome :=
  unlessFaulted (withSchedule fun s =>
    if s.ilen.toNat % 8 ≠ 0 then s.raise .malformedLength
    else if s.ilen = 0 then s.raise .malformedEmpty
    else s.outputUnpadded (decryptStream s.rk s.input)) s

end Sys2Proof.Machine
end

