-- ==== Sys2Proof/Machine/Dispatch.lean ====
section
/-! DEFINITION. One arm per command: what executing it does to the state (`45_control.md` R181 step (3)). -/

namespace Sys2Proof.Machine

def exec (i : Instr) (s : State) : Host.Outcome State Fault Refusal :=
  match i with
  | .clrerr => Sys2Proof.Machine.execClrerr s
  | .tblchk => Sys2Proof.Machine.execTblchk s
  | .permIp => Sys2Proof.Machine.execPermIp s
  | .permFp => Sys2Proof.Machine.execPermFp s
  | .permE => Sys2Proof.Machine.execPermE s
  | .permP => Sys2Proof.Machine.execPermP s
  | .permPc1 => Sys2Proof.Machine.execPermPc1 s
  | .permPc2 => Sys2Proof.Machine.execPermPc2 s
  | .subst => Sys2Proof.Machine.execSubst s
  | .ldkeyHex => Sys2Proof.Machine.execLdkeyHex s
  | .ldkeyRaw => Sys2Proof.Machine.execLdkeyRaw s
  | .ksched => Sys2Proof.Machine.execKsched s
  | .round k => Sys2Proof.Machine.execRound k s
  | .split => Sys2Proof.Machine.execSplit s
  | .swap => Sys2Proof.Machine.execSwap s
  | .join => Sys2Proof.Machine.execJoin s
  | .encblk => Sys2Proof.Machine.execEncblk s
  | .decblk => Sys2Proof.Machine.execDecblk s
  | .pad => Sys2Proof.Machine.execPad s
  | .unpad => Sys2Proof.Machine.execUnpad s
  | .encbytes => Sys2Proof.Machine.execEncbytes s
  | .decbytes => Sys2Proof.Machine.execDecbytes s

end Sys2Proof.Machine
end

