-- ==== Sys2Proof/Machine/Transactions.lean ====
section
/-! DEFINITION. The five host transactions (`45_control.md` R180 to R182, `20_memory.md` R53) and what one step does: it performs
the host's next transaction. -/

namespace Sys2Proof.Machine

/-- `WriteReg(CMD, v)` (R181): the value is decoded; a command is executed, an illegal word faults. That neither happens while
a fault is recorded (step (1)) is `unlessFaulted`, which `exec`'s meanings and `illegalWord` go through. -/
def writeCommand (v : Block) (s : State) : Outcome :=
  match decode v with
  | .error _ => illegalWord s
  | .ok i => exec i s

/-- `MemWrite(SPACE:a, n, B)` (R53, R180, R182): only to `KBUF` and `IBUF`, `n` bytes, inside the capacity. -/
def hostWrite (space : Space) (a n : Nat) (bs : List Byte) (s : State) : Outcome :=
  if bs.length ≠ n then .refused .byteCountMismatch
  else if s.capacity space < a + n then .refused (.outsideBuffer space)
  else match space with
    | .kbuf => .next { s with kbuf := bufferWriteBytes s.kbuf a bs }
    | .ibuf => .next { s with ibuf := bufferWriteBytes s.ibuf a bs }
    | .obuf => .refused .bufferNotWritable

/-- `MemRead(SPACE:a, n)` (R53, R180): the bytes are the reply. -/
def hostRead (space : Space) (a n : Nat) (s : State) : Outcome :=
  if s.capacity space < a + n then .refused (.outsideBuffer space)
  else .next { s with reply := .bytes (bufferReadBytes space (s.buffer space) a n) }

/-- One host transaction (R180). -/
def perform (t : Transaction) (s : State) : Outcome :=
  match t with
  | .reset => .next (s.resetCore theTables)
  | .writeReg n v =>
    match regOfNumber n with
    | .cmd => writeCommand v s
    | reg => .next (s.writeReg v reg)
  | .readReg n => .next { s with reply := .value (s.readReg (regOfNumber n)) }
  | .memWrite space a n bs => hostWrite space a n bs s
  | .memRead space a n => hostRead space a n s

/-- The state in which the next transaction is performed: it is taken off the list, and nothing has been returned yet. -/
def State.take (rest : List Transaction) (s : State) : State := { s with pending := rest, reply := .nothing }

/-- One step: the host's next transaction is performed; with none pending the state does not change (R180). -/
def performNext (s : State) : Outcome :=
  match s.pending with
  | [] => .next s
  | t :: rest => perform t (s.take rest)

/-- The state in which the next transaction is the write of `v` to `CMD` (number 0x20, R20). -/
def State.offerCommand (v : Block) (s : State) : State :=
  { s with pending := .writeReg 0x20 v :: s.pending }

end Sys2Proof.Machine
end

