-- ==== Sys2Proof/Machine/Step.lean ====
section
/-! DEFINITION. One step of the machine, and how a word is put where the step takes its next instruction from. -/

namespace Sys2Proof.Machine

/-- One step: the host's next transaction (`45_control.md` R180). -/
def step (s : State) : Host.Outcome State Fault Refusal := performNext s

/-- `s` with the write of the word `w` to `CMD` as its next transaction: DESCORE has no fetch, the host writes each command
(`30_encoding.md` R70). -/
def State.withFetchWord (s : State) (nbits w : Nat) : State := s.offerCommand (tableWord nbits w)

end Sys2Proof.Machine
end

