-- ==== Sys2Proof/Machine/Sequences.lean ====
section
/-! DEFINITION. The pseudo-instructions (`30_encoding.md` R76), each the sequence of host transactions it stands for, and the
byte-level contract built from them (`44_padding_bytes.md` R171). They have no encoding of their own. -/

namespace Sys2Proof.Machine

/-- A sequence of host transactions, each performed in the state the one before it left (R182). -/
def hostRun : List Transaction → State → Outcome
  | [], s => .next s
  | t :: ts, s =>
    match perform t s with
    | .next u => hostRun ts u
    | .fault r => .fault r
    | .refused r => .refused r

/-- The line of a program that is a mnemonic: the write of its word to `CMD` (R75). -/
def commandLine (i : Instr) : Transaction := .writeReg 0x20 (commandWord i)

/-- The bytes of a key text that the host writes to `KBUF`: all of them, or of one longer than `KBUF_MAX` any 32 (R76), here the
first 32 (log entry 9). -/
def keyBytes (h : List Byte) : List Byte := h.take Config.kbufMax

/-- The writing of key bytes to `KBUF` and of their number to `KLEN` (R76). -/
def writeKey (b : List Byte) : List Transaction :=
  [.memWrite .kbuf 0 (keyBytes b).length (keyBytes b), .writeReg 0x23 (BitVec.ofNat 64 (keyBytes b).length)]

/-- `SETKEY.HEX "h"` (R76). -/
def setKeyHex (h : List Byte) : List Transaction := writeKey h ++ [commandLine .ldkeyHex, commandLine .ksched]

/-- `SETKEY.RAW b` (R76). -/
def setKeyRaw (b : List Byte) : List Transaction := writeKey b ++ [commandLine .ldkeyRaw, commandLine .ksched]

/-- `LOADIN b` (R76). -/
def loadIn (b : List Byte) : List Transaction :=
  [.memWrite .ibuf 0 b.length b, .writeReg 0x24 (BitVec.ofNat 64 b.length)]

/-- `ReadReg(n)`, then what the host does with the value it returns. -/
def readThen (n : BitVec 8) (use : Block → State → Outcome) (s : State) : Outcome :=
  match perform (.readReg n) s with
  | .next t =>
    match t.reply with
    | .value v => use v t
    | .nothing | .bytes _ => .next t
  | .fault r => .fault r
  | .refused r => .refused r

/-- A sequence of transactions, then what the host does after it. -/
def runThen (ts : List Transaction) (after : State → Outcome) (s : State) : Outcome :=
  match hostRun ts s with
  | .next t => after t
  | .fault r => .fault r
  | .refused r => .refused r

/-- `RD OLEN`; `RDB OBUF, 0, OLEN` (R76): as many bytes of `OBUF` are read as `OLEN` said. -/
def readOutput (s : State) : Outcome := readThen 0x25 (fun n => perform (.memRead .obuf 0 n.toNat)) s

/-- The end of R171: `ERR` is read; when it is 0, `OLEN` and `OBUF[0..OLEN)` are read, and the last reply is the result; otherwise the
last reply is the value of `ERR`, and its `CODE` is the failure. -/
def readResult (s : State) : Outcome := readThen 0x22 (fun e t => if e = 0 then readOutput t else .next t) s

/-- The part of `ENCRYPT` and `DECRYPT` before the reading (R76): the key, the payload, the stream command. -/
def streamLines (i : Instr) (h b : List Byte) : List Transaction := setKeyHex h ++ loadIn b ++ [commandLine i]

/-- `ENCRYPT "h", b` (R76), which reads `OLEN` and `OBUF` in every case. -/
def encryptSequence (h b : List Byte) (s : State) : Outcome := runThen (streamLines .encbytes h b) readOutput s

/-- `DECRYPT "h", b` (R76), which reads `OLEN` and `OBUF` in every case. -/
def decryptSequence (h b : List Byte) (s : State) : Outcome := runThen (streamLines .decbytes h b) readOutput s

/-- `encryptBytes(key, plaintext)` (R171): the last reply is the ciphertext, or the value of `ERR` on a failure. -/
def encryptBytes (h b : List Byte) (s : State) : Outcome := runThen (streamLines .encbytes h b) readResult s

/-- `decryptBytes(key, ciphertext)` (R171): the last reply is the plaintext, or the value of `ERR` on a failure. -/
def decryptBytes (h b : List Byte) (s : State) : Outcome := runThen (streamLines .decbytes h b) readResult s

end Sys2Proof.Machine
end

