-- ==== Sys2Proof/Safety.lean ====
section
/-! DEFINITION. The terms claims are stated in: sequences of commands, a successful end, the faults each command can raise
(`60_exceptions.md` R192), and the invariants of the machine. -/

namespace Sys2Proof

open Machine

/-- A state that is a successful end of an operation: no fault is recorded (R202, R203). -/
def Safe (s : State) : Prop := s.err = .clear

/-- A sequence of commands, each executed in the state the one before it left. -/
def runCommands : List Instr → State → Outcome
  | [], s => .next s
  | i :: is, s =>
    match exec i s with
    | .next t => runCommands is t
    | .fault r => .fault r
    | .refused r => .refused r

/-- The expansion of a block command into primitive commands (R151): `PERM.IP`; `SPLIT`; the rounds of `ks` with a `SWAP`
between them; `JOIN`; `PERM.FP`. -/
def blockExpansion (ks : List (Fin 16)) : List Instr :=
  [.permIp, .split] ++ (ks.map Instr.round).intersperse .swap ++ [.join, .permFp]

/-- The schedule indices in the order of encryption, 0 to 15. -/
def scheduleOrder : List (Fin 16) := [0, 1, 2, 3, 4, 5, 6, 7, 8, 9, 10, 11, 12, 13, 14, 15]

/-- The faults a command can raise: the row of the command in the table of R192. -/
def raisable : Instr → List Err
  | .tblchk => [.configurationError]
  | .ldkeyHex => [.invalidKeyLength, .invalidKeyFormat]
  | .ldkeyRaw => [.invalidKeyLength]
  | .ksched => [.keyNotLoaded]
  | .round _ | .encblk | .decblk | .encbytes => [.scheduleNotLoaded]
  | .unpad => [.malformedLength, .malformedEmpty, .malformedPad]
  | .decbytes => [.malformedLength, .malformedEmpty, .malformedPad, .scheduleNotLoaded]
  | .clrerr | .permIp | .permFp | .permE | .permP | .permPc1 | .permPc2 | .subst | .split | .swap | .join | .pad => []

/-- The commands that read the round keys (R25). -/
def needsSchedule : Instr → Bool
  | .round _ | .encblk | .decblk | .encbytes | .decbytes => true
  | .clrerr | .tblchk | .permIp | .permFp | .permE | .permP | .permPc1 | .permPc2 | .subst | .ldkeyHex | .ldkeyRaw
  | .ksched | .split | .swap | .join | .pad | .unpad => false

/-- The stream commands (R14). -/
def isStream : Instr → Bool
  | .pad | .unpad | .encbytes | .decbytes => true
  | .clrerr | .tblchk | .permIp | .permFp | .permE | .permP | .permPc1 | .permPc2 | .subst | .ldkeyHex | .ldkeyRaw
  | .ksched | .round _ | .split | .swap | .join | .encblk | .decblk => false

/-- What the spec says of lengths, buffers and `ERR` in every state a run reaches. -/
structure BufferInv (s : State) : Prop where
  /-- `KLEN` is 0 to 32 (R30). -/
  klen_le : s.klen.toNat ≤ Config.kbufMax
  /-- `ILEN` is 0 to `BUF_MAX` (R30). -/
  ilen_le : s.ilen.toNat ≤ s.bufMax
  /-- `OLEN` is at most `BUF_MAX + 8` (R12, R50). -/
  olen_le : s.olen.toNat ≤ s.bufMax + 8
  /-- The memories are in canonical form. -/
  kbuf_wf : memoryWf s.kbuf.cells = true
  ibuf_wf : memoryWf s.ibuf.cells = true
  obuf_wf : memoryWf s.obuf.cells = true
  /-- No byte stands outside a buffer's capacity (R50). -/
  kbuf_lt : ∀ x ∈ s.kbuf.cells, x.1 < Config.kbufMax
  ibuf_lt : ∀ x ∈ s.ibuf.cells, x.1 < s.bufMax
  /-- The bytes of `OBUF` that hold a value are `OBUF[0..OLEN)` and no others (R51). -/
  obuf_valid : s.obuf.cells.map Prod.fst = List.range s.olen.toNat
  /-- While a fault is recorded `OLEN` is 0 (R193, R203). -/
  fault_void : s.errf = true → s.olen = 0
  /-- `ConfigurationError` is never recorded (R107). -/
  err_ne : s.err ≠ .configurationError

/-- What `RKV` promises: the key is loaded, and the round keys and the halves are those of that key (R24, R25, R27, R222). -/
structure ScheduleInv (s : State) : Prop where
  key_valid : s.rkv = true → s.kv = true
  rk_current : s.rkv = true → s.rk = deriveRoundKeys s.key
  halves_current : s.rkv = true → (s.c, s.d) = keyHalves s.key 16

end Sys2Proof
end

