-- ==== Sys2Proof/Certificates/Slice0/Obligations.lean ====
section
/-! DEFINITION. The statements for the provers, one per rule or group of rules of the spec. `s.errf = false` is "no fault is
recorded" throughout; `.next { s with ... }` says which fields are written and that nothing else changes. -/

section

open Sys2Proof Sys2Proof.Machine

/-! ## Encoding and execution -/

/-- Decoding and encoding agree exactly (R70, R72, R73): a value written to `CMD` decodes to an instruction just when
it is that instruction's word, zero-extended. Both directions: no bit of a word is dropped, and no second word decodes to
the same instruction. -/
def Obligations.DecodeReadsExactlyTheEncodedWord : Prop :=
  ∀ (v : Block) (i : Instr), decode v = .ok i ↔ v = commandWord i

/-- R74: exactly the words the rule lists are illegal, 219 of the 256 8-bit words and every word with a higher bit; such a word
written to `CMD` executes nothing and faults `IllegalCommand` with `SUB` 0, and is ignored while a fault is recorded. -/
def Obligations.IllegalWordsFault : Prop :=
  (∀ v : Block, CommandWord.wellFormed v = false ↔ ∃ e, decode v = .error e) ∧
  ((List.range 256).filter fun n => !CommandWord.wellFormed (BitVec.ofNat 64 n)).length = 219 ∧
  (∀ v : Block, 256 ≤ v.toNat → CommandWord.wellFormed v = false) ∧
  ∀ (v : Block) (s : State), CommandWord.wellFormed v = false →
    perform (.writeReg 0x20 v) s = writeCommand v s ∧
    (s.errf = false → writeCommand v s = .next (s.raise .illegalCommand)) ∧
    (s.errf = true → writeCommand v s = .next s)

/-- The words of R72, written out, decode to the commands they stand for. -/
def Obligations.WrittenOutWordsDecode : Prop :=
  decode 0x0000000000000001 = .ok .clrerr ∧ decode 0x0000000000000013 = .ok .permP ∧
  decode 0x0000000000000020 = .ok .subst ∧ decode 0x0000000000000031 = .ok .ldkeyRaw ∧
  decode 0x0000000000000047 = .ok (.round 7) ∧ decode 0x0000000000000052 = .ok .join ∧
  decode 0x0000000000000061 = .ok .decblk ∧ decode 0x0000000000000071 = .ok .unpad ∧
  decode 0x0000000000000080 = .ok .encbytes

/-- A step performs the host's next transaction, taken off the list with no reply yet; a write to `CMD` (0x20) of a word that
decodes to `i` executes `i` and nothing around it, and of any other value takes the fault `IllegalCommand`, or does nothing while a
fault is recorded; with nothing pending the state stays (R74, R180, R181). That the transactions stand in a list is the
model's choice, log entry 1. -/
def Obligations.StepRunsTheDecodedCommand : Prop :=
  (∀ s : State, s.pending = [] → step s = .next s) ∧
  (∀ (s : State) (t : Transaction) (rest : List Transaction), s.pending = t :: rest →
    step s = perform t { s with pending := rest, reply := .nothing }) ∧
  (∀ (v : Block) (s : State), perform (.writeReg 0x20 v) s = writeCommand v s) ∧
  ∀ (s : State) (v : Block) (rest : List Transaction), s.pending = .writeReg 0x20 v :: rest →
    (∀ i, decode v = .ok i → step s = exec i { s with pending := rest, reply := .nothing }) ∧
    (∀ e, decode v = .error e →
      (s.errf = false →
        step s = .next (({ s with pending := rest, reply := .nothing } : State).raise .illegalCommand)) ∧
      (s.errf = true → step s = .next { s with pending := rest, reply := .nothing }))

/-- R181 and R202: every command completes, whatever is written to `CMD` in whatever state. -/
def Obligations.EveryCommandCompletes : Prop :=
  (∀ (v : Block) (s : State), ∃ t, writeCommand v s = .next t) ∧
  ∀ (i : Instr) (s : State), ∃ t, exec i s = .next t

/-! ## Faults -/

/-- R190, R191: code, sub-code and byte of each recorded fault; `ERR[3]` is always 0. -/
def Obligations.FaultCodesAndBytes : Prop :=
  (Err.clear.byte = 0x00 ∧ Err.invalidKeyLength.byte = 0x11 ∧ Err.invalidKeyFormat.byte = 0x21 ∧
    Err.malformedLength.byte = 0x12 ∧ Err.malformedPad.byte = 0x22 ∧ Err.malformedEmpty.byte = 0x32 ∧
    Err.configurationError.byte = 0x04 ∧ Err.keyNotLoaded.byte = 0x15 ∧ Err.scheduleNotLoaded.byte = 0x25 ∧
    Err.illegalCommand.byte = 0x06) ∧
  ∀ e : Err, e.byte.extractLsb' 0 3 = e.code ∧ e.byte.getLsbD 3 = false ∧ e.byte.extractLsb' 4 4 = e.sub

/-- R193 for every word a host can write: if it records a fault, then `ERR` holds that fault, `OLEN` is 0, no byte of `OBUF`
holds a value, and nothing else has changed. -/
def Obligations.FaultEntryIsTheOnlyChange : Prop :=
  ∀ (v : Block) (s t : State), s.errf = false → writeCommand v s = .next t → t.errf = true →
    t = { s with err := t.err, olen := 0, obuf := t.obuf } ∧ (∀ a, memoryRead t.obuf.cells a = none) ∧
    t.err.byte = t.err.sub ++ 0#1 ++ t.err.code

/-- R194: while a fault is recorded a write to `CMD` does nothing for every word but that of `CLRERR`, whichever number of
commands follow; register and buffer accesses are performed as usual. -/
def Obligations.RecordedFaultIgnoresEveryWord : Prop :=
  (∀ (v : Block) (s : State), s.errf = true → v ≠ 1 → writeCommand v s = .next s) ∧
  (∀ (is : List Instr) (s : State), s.errf = true → Instr.clrerr ∉ is → runCommands is s = .next s) ∧
  (∀ (n : BitVec 8) (v : Block) (s : State), s.errf = true → n ≠ 0x20 →
    perform (.writeReg n v) s = .next (s.writeReg v (regOfNumber n))) ∧
  (∀ (n : BitVec 8) (s : State), s.errf = true →
    perform (.readReg n) s = .next { s with reply := .value (s.readReg (regOfNumber n)) }) ∧
  (∀ (a n : Nat) (bs : List Byte) (s : State), s.errf = true → bs.length = n →
    (a + n ≤ s.bufMax → perform (.memWrite .ibuf a n bs) s = .next { s with ibuf := bufferWriteBytes s.ibuf a bs }) ∧
    (a + n ≤ 32 → perform (.memWrite .kbuf a n bs) s = .next { s with kbuf := bufferWriteBytes s.kbuf a bs })) ∧
  ∀ (space : Space) (a n : Nat) (s : State), s.errf = true → a + n ≤ s.capacity space →
    perform (.memRead space a n) s = .next { s with reply := .bytes (bufferReadBytes space (s.buffer space) a n) }

/-- R192, complete: a command raises no fault outside its row of the table, and every fault of the row in some state
(`ConfigurationError` with tables that fail the check, since with this hardware's tables it cannot occur). -/
def Obligations.EachCommandRaisesItsFaults : Prop :=
  (∀ (i : Instr) (s t : State), s.errf = false → exec i s = .next t → t.err = .clear ∨ t.err ∈ raisable i) ∧
  (∀ (i : Instr) (e : Err), e ∈ raisable i → e ≠ .configurationError →
    ∃ s : State, s.errf = false ∧ exec i s = .next (s.raise e)) ∧
  ∃ (t : Tables) (s : State), s.errf = false ∧ tableCheck t s = s.raise .configurationError

/-- R195: when several conditions hold, the first in the rule's order is the one recorded. -/
def Obligations.FaultPriority : Prop :=
  (∀ (v : Block) (s : State), s.errf = true → v ≠ 1 → writeCommand v s = .next s) ∧
  (∀ (v : Block) (s : State), s.errf = false → CommandWord.wellFormed v = false →
    writeCommand v s = .next (s.raise .illegalCommand)) ∧
  (∀ s : State, s.errf = false → s.kv = false → exec .ksched s = .next (s.raise .keyNotLoaded)) ∧
  (∀ (i : Instr) (s : State), s.errf = false → needsSchedule i = true → s.rkv = false →
    exec i s = .next (s.raise .scheduleNotLoaded)) ∧
  (∀ (i : Instr) (s : State), s.errf = false → (i = .unpad ∨ i = .decbytes ∧ s.rkv = true) →
    (s.ilen.toNat % 8 ≠ 0 → exec i s = .next (s.raise .malformedLength)) ∧
    (s.ilen = 0 → exec i s = .next (s.raise .malformedEmpty)) ∧
    (s.ilen.toNat % 8 = 0 → s.ilen ≠ 0 → ∀ t, exec i s = .next t → t.err = .clear ∨ t.err = .malformedPad)) ∧
  (∀ s : State, s.errf = false → s.klen ≠ 16 → exec .ldkeyHex s = .next (s.raise .invalidKeyLength)) ∧
  ∀ s : State, s.errf = false → s.klen = 16 → (∃ b ∈ s.kin, hexDigit b = none) →
    exec .ldkeyHex s = .next (s.raise .invalidKeyFormat)

/-- R183: `CLRERR` clears `ERR` and nothing else, but leaves `ConfigurationError`; it never raises a fault, and it is the only
command that executes while a fault is recorded. -/
def Obligations.ClrerrClearsTheFault : Prop :=
  encode .clrerr = 0x01 ∧
  (∀ s : State, s.err.code ≠ 4 → exec .clrerr s = .next { s with err := .clear }) ∧
  (∀ s : State, s.err.code = 4 → exec .clrerr s = .next s) ∧
  (∀ s t : State, s.err.code ≠ 4 → exec .clrerr s = .next t → t.status.getLsbD 2 = false) ∧
  ∀ (i : Instr) (s : State), s.errf = true → i ≠ .clrerr → exec i s = .next s

/-- R196: a recorded fault is cleared by `CLRERR` or `Reset` and by nothing else, and no other command raises a second one;
`ConfigurationError` is not cleared by `CLRERR` and comes back after `Reset`; after `CLRERR` the state is the one before
the faulting command but for `OLEN` and `OBUF`, and the same command faults again with the same code. -/
def Obligations.FaultClearedAndReissued : Prop :=
  (∀ (t : Transaction) (s u : State), s.errf = true → perform t s = .next u → u.errf = false →
    t = .reset ∨ t = .writeReg 0x20 1) ∧
  (∀ s : State, s.err.code ≠ 4 → ∃ u, perform (.writeReg 0x20 1) s = .next u ∧ u.errf = false) ∧
  (∀ s : State, s.err.code = 4 → perform (.writeReg 0x20 1) s = .next s) ∧
  (∀ (tables : Tables) (s : State), (s.resetCore tables).err.code = if tablesValid tables = true then 0 else 4) ∧
  (∀ (i : Instr) (s t : State), s.errf = true → exec i s = .next t → t.err = s.err ∨ t.errf = false) ∧
  ∀ (i : Instr) (s t : State), s.errf = false → exec i s = .next t → t.errf = true →
    ∃ u u', exec .clrerr t = .next u ∧ u = { s with olen := 0, obuf := t.obuf } ∧
      exec i u = .next u' ∧ u'.err = t.err

/-! ## Tables and the control commands -/

/-- R106: `tablesValid` is exactly the conditions (a) to (e), for any set of tables, and this hardware's tables meet it. -/
def Obligations.TablesValidIsTheConditions : Prop :=
  tablesValid theTables = true ∧
  ∀ t : Tables, tablesValid t = true ↔
    (t.ip.length = 64 ∧ t.fp.length = 64 ∧ t.e.length = 48 ∧ t.p.length = 32 ∧ t.pc1.length = 56 ∧ t.pc2.length = 48) ∧
    ((∀ x ∈ t.ip, 1 ≤ x ∧ x ≤ 64) ∧ (∀ x ∈ t.fp, 1 ≤ x ∧ x ≤ 64) ∧ (∀ x ∈ t.e, 1 ≤ x ∧ x ≤ 32) ∧
      (∀ x ∈ t.p, 1 ≤ x ∧ x ≤ 32) ∧ (∀ x ∈ t.pc1, 1 ≤ x ∧ x ≤ 64) ∧ (∀ x ∈ t.pc2, 1 ≤ x ∧ x ≤ 56)) ∧
    (t.ip.Nodup ∧ t.fp.Nodup ∧ t.p.Nodup ∧ t.pc1.Nodup ∧ t.pc2.Nodup) ∧
    (t.sboxes.length = 8 ∧ ∀ b ∈ t.sboxes, b.length = 4 ∧ ∀ row ∈ b, row.length = 16 ∧ ∀ x ∈ row, x ≤ 15) ∧
    (t.shifts.length = 16 ∧ ∀ x ∈ t.shifts, x = 1 ∨ x = 2)

/-- R107: `TBLCHK` raises `ConfigurationError` when the tables fail the check and otherwise changes nothing; with this hardware's
tables it changes nothing in any state. -/
def Obligations.TblchkChangesNothing : Prop :=
  encode .tblchk = 0x02 ∧
  (∀ s : State, exec .tblchk s = .next s) ∧
  ∀ (t : Tables) (s : State), (tablesValid t = true → tableCheck t s = s) ∧
    (tablesValid t = false → tableCheck t s = s.raise .configurationError)

/-- R105: FP is the inverse of IP in both directions, entry by entry and as permutations of 64-bit vectors. -/
def Obligations.FpInvertsIp : Prop :=
  (∀ i, 1 ≤ i → i ≤ 64 → tableIp.getD (tableFp.getD (i - 1) 0 - 1) 0 = i) ∧
  (∀ i, 1 ≤ i → i ≤ 64 → tableFp.getD (tableIp.getD (i - 1) 0 - 1) 0 = i) ∧
  ∀ x : Block, (permute 64 tableFp (permute 64 tableIp x : Block) : Block) = x ∧
    (permute 64 tableIp (permute 64 tableFp x : Block) : Block) = x

/-- R113 and R123: every one of the 32 S-box rows holds each of 0 to 15 exactly once; the shift schedule is 1 in rounds 0, 1,
8 and 15 and 2 in the others, and sums to 28. -/
def Obligations.SboxRowsAndShiftsAreAsStated : Prop :=
  (sboxes.length = 8 ∧ ∀ b ∈ sboxes, b.length = 4 ∧
    ∀ row ∈ b, row.length = 16 ∧ ∀ x, x < 16 → row.count x = 1) ∧
  shifts.length = 16 ∧ shifts.sum = 28 ∧
  ∀ r, r < 16 → shifts.getD r 0 = if r = 0 ∨ r = 1 ∨ r = 8 ∨ r = 15 then 1 else 2

/-! ## Permutation and substitution -/

/-- R90: output bit `i`, from 0 at the most significant end, is source bit `T[i] - 1`; in slice numbering
`out[M - 1 - i] = source[N - T[i]]`. -/
def Obligations.PermuteMovesPositions : Prop :=
  ∀ (n m : Nat) (t : List Nat) (x : BitVec n), t.length = m → (∀ p ∈ t, 1 ≤ p ∧ p ≤ n) →
    ∀ i, i < m → (permute m t x).getMsbD i = x.getMsbD (t.getD i 0 - 1) ∧
      (permute m t x).getLsbD (m - 1 - i) = x.getLsbD (n - t.getD i 0)

/-- R99 to R104, word and pseudocode of the six `PERM.t`: `W` gets the permuted operand, zero-extended; nothing else changes. -/
def Obligations.PermCommandsApplyTheirTables : Prop :=
  [Instr.permIp, .permFp, .permE, .permP, .permPc1, .permPc2].map encode = [0x10, 0x11, 0x12, 0x13, 0x14, 0x15] ∧
  ∀ s : State, s.errf = false →
    exec .permIp s = .next { s with w := permute 64 tableIp s.w } ∧
    exec .permFp s = .next { s with w := permute 64 tableFp s.w } ∧
    exec .permE s = .next { s with w := zext64 (permute 48 tableE (s.w.extractLsb' 0 32) : BitVec 48) } ∧
    exec .permP s = .next { s with w := zext64 (permute 32 tableP (s.w.extractLsb' 0 32) : BitVec 32) } ∧
    exec .permPc1 s = .next { s with w := zext64 (permute 56 tablePc1 s.w : BitVec 56) } ∧
    exec .permPc2 s = .next { s with w := zext64 (permute 48 tablePc2 (s.w.extractLsb' 0 56) : BitVec 48) }

/-- R98, bit by bit, for each of the six tables with its widths and its word: bit `m - 1 - j` of the new `W` is bit
`n - T[j]` of the old, the bits from `m` up are zero, only `W` is written, and the command is ignored while a fault is
recorded. -/
def Obligations.PermCommandsMoveBits : Prop :=
  ∀ x ∈ ([(.permIp, 0, 64, 64, tableIp), (.permFp, 1, 64, 64, tableFp), (.permE, 2, 32, 48, tableE),
      (.permP, 3, 32, 32, tableP), (.permPc1, 4, 64, 56, tablePc1), (.permPc2, 5, 56, 48, tablePc2)] :
      List (Instr × Nat × Nat × Nat × List Nat)),
    (encode x.1).toNat = 0x10 + x.2.1 ∧ x.2.2.2.2.length = x.2.2.2.1 ∧
    ∀ s : State,
      (s.errf = true → exec x.1 s = .next s) ∧
      (s.errf = false → ∃ t : State, exec x.1 s = .next t ∧ t = { s with w := t.w } ∧
        (∀ j, j < x.2.2.2.1 → t.w.getLsbD (x.2.2.2.1 - 1 - j) = s.w.getLsbD (x.2.2.1 - x.2.2.2.2.getD j 0)) ∧
        ∀ j, x.2.2.2.1 ≤ j → t.w.getLsbD j = false)

/-- R224: `PERM.E` and `PERM.P` read `W[31:0]`, `PERM.PC2` reads `W[55:0]`, `SUBST` reads `W[47:0]`; the bits above have no effect,
and the result clears the bits above its own width. -/
def Obligations.NarrowOperandsIgnoreHighBits : Prop :=
  ∀ x ∈ ([(.permE, 32, 48), (.permP, 32, 32), (.permPc2, 56, 48), (.subst, 48, 32)] : List (Instr × Nat × Nat)),
    ∀ (s : State) (w : Block), s.errf = false → (∀ j, j < x.2.1 → w.getLsbD j = s.w.getLsbD j) →
      ∃ t : State, exec x.1 s = .next t ∧ exec x.1 { s with w := w } = .next t ∧
        ∀ j, x.2.2 ≤ j → t.w.getLsbD j = false

/-- R110 and R112. `substitute`: group `i` is `x[47-6i : 42-6i]`, its outer bits select the row, its inner bits the column, and
the entry of `S[i]` fills `out[31-4i : 28-4i]`. `SUBST` substitutes `W[47:0]`, zero-extended into `W`; nothing else changes, and it
is ignored while a fault is recorded. -/
def Obligations.SubstLooksUpEveryGroup : Prop :=
  (∀ (x : BitVec 48) (i : Nat), i < 8 →
    ((substitute x).extractLsb' (28 - 4 * i) 4).toNat =
      ((sboxes.getD i []).getD (2 * (x.getLsbD (47 - 6 * i)).toNat + (x.getLsbD (42 - 6 * i)).toNat) []).getD
        (x.extractLsb' (43 - 6 * i) 4).toNat 0) ∧
  encode .subst = 0x20 ∧
  ∀ s : State, (s.errf = false → exec .subst s = .next { s with w := zext64 (substitute (s.w.extractLsb' 0 48)) }) ∧
    (s.errf = true → exec .subst s = .next s)

/-! ## The key -/

/-- R120: the hex digits are the bytes 0x30 to 0x39, 0x41 to 0x46 and 0x61 to 0x66, with the values 0 to 9, 10 to 15 and 10 to
15, and no other byte is a hex digit. -/
def Obligations.HexDigitsAreAscii : Prop :=
  (∀ j, j < 10 → hexDigit (BitVec.ofNat 8 (0x30 + j)) = some j) ∧
  (∀ j, j < 6 → hexDigit (BitVec.ofNat 8 (0x41 + j)) = some (10 + j) ∧ hexDigit (BitVec.ofNat 8 (0x61 + j)) = some (10 + j)) ∧
  ∀ b : Byte, hexDigit b = none ↔
    b.toNat < 0x30 ∨ 0x39 < b.toNat ∧ b.toNat < 0x41 ∨ 0x46 < b.toNat ∧ b.toNat < 0x61 ∨ 0x66 < b.toNat

/-- R121: `LDKEY.HEX` faults `LENGTH` unless `KLEN` is 16, then `FORMAT` if a byte is not a hex digit; otherwise hex digit `j` of
`KEY`, from the most significant, is the digit of `KBUF[j]`, `KV` is set, `RKV` cleared and nothing else changes. -/
def Obligations.LdkeyHexLoadsTheText : Prop :=
  encode .ldkeyHex = 0x30 ∧
  ∀ s : State, s.errf = false →
    (s.klen ≠ 16 → exec .ldkeyHex s = .next (s.raise .invalidKeyLength)) ∧
    (s.klen = 16 → (∃ j, j < 16 ∧ hexDigit (bufferRead .kbuf s.kbuf j) = none) →
      exec .ldkeyHex s = .next (s.raise .invalidKeyFormat)) ∧
    (s.klen = 16 → (∀ j, j < 16 → hexDigit (bufferRead .kbuf s.kbuf j) ≠ none) →
      ∃ key : Block, exec .ldkeyHex s = .next { s with key := key, kv := true, rkv := false } ∧
        ∀ j, j < 16 → hexDigit (bufferRead .kbuf s.kbuf j) = some (key.extractLsb' (60 - 4 * j) 4).toNat)

/-- R122: `LDKEY.RAW` faults `LENGTH` unless `KLEN` is 8; otherwise byte `j` of `KEY`, from the most significant, is `KBUF[j]`,
`KV` is set, `RKV` cleared and nothing else changes. -/
def Obligations.LdkeyRawLoadsTheBytes : Prop :=
  encode .ldkeyRaw = 0x31 ∧
  ∀ s : State, s.errf = false →
    (s.klen ≠ 8 → exec .ldkeyRaw s = .next (s.raise .invalidKeyLength)) ∧
    (s.klen = 8 → ∃ key : Block, exec .ldkeyRaw s = .next { s with key := key, kv := true, rkv := false } ∧
      ∀ j, j < 8 → key.extractLsb' (56 - 8 * j) 8 = bufferRead .kbuf s.kbuf j)

/-- R124: `C_0 ‖ D_0` is PC1 of the key; after `n` rounds each half is rotated left by the sum of the first `n` shifts in all;
round key `r` is PC2 of the halves after round `r`'s rotation, `C` first. -/
def Obligations.KeyHalvesRotateCumulatively : Prop :=
  ∀ key : Block,
    (∀ n, n ≤ 16 → keyHalves key n =
      (((permute 56 tablePc1 key : BitVec 56).extractLsb' 28 28).rotateLeft (shifts.take n).sum,
       ((permute 56 tablePc1 key : BitVec 56).extractLsb' 0 28).rotateLeft (shifts.take n).sum)) ∧
    ∀ r : Fin 16, (deriveRoundKeys key)[r] =
      permute 48 tablePc2 ((keyHalves key (r.val + 1)).1 ++ (keyHalves key (r.val + 1)).2)

/-- R125: `KSCHED` without a key faults `KeyNotLoaded(KEY)`; with one it writes the sixteen round keys, the halves after the
sixteenth rotation and `RKV`, and nothing else. -/
def Obligations.KschedWritesTheSchedule : Prop :=
  encode .ksched = 0x32 ∧
  ∀ s : State, s.errf = false →
    (s.kv = false → exec .ksched s = .next (s.raise .keyNotLoaded)) ∧
    (s.kv = true → exec .ksched s = .next
      { s with rk := deriveRoundKeys s.key, c := (keyHalves s.key 16).1, d := (keyHalves s.key 16).2, rkv := true })

/-- R127: sixteen rotations bring the halves back to where they started, so after `KSCHED` the registers `C` and `D` hold the
two halves of PC1 of the key. -/
def Obligations.KschedLeavesThePc1Halves : Prop :=
  (∀ key : Block, keyHalves key 16 = keyHalves key 0) ∧
  ∀ s : State, s.errf = false → s.kv = true →
    ∃ t, exec .ksched s = .next t ∧ t.c ++ t.d = (permute 56 tablePc1 s.key : BitVec 56)

/-- R128: the least significant bit of each key byte has no effect on the round keys, the halves or any ciphertext, and a key
with any parity is accepted. -/
def Obligations.ParityBitsHaveNoEffect : Prop :=
  (∀ key key' : Block, key &&& 0xFEFEFEFEFEFEFEFE = key' &&& 0xFEFEFEFEFEFEFEFE →
    deriveRoundKeys key = deriveRoundKeys key' ∧ keyHalves key 16 = keyHalves key' 16 ∧
    ∀ x, desEnc (deriveRoundKeys key) x = desEnc (deriveRoundKeys key') x) ∧
  ∀ s : State, s.errf = false →
    (s.klen = 8 → ∃ t, exec .ldkeyRaw s = .next t ∧ t.errf = false) ∧
    (s.klen = 16 → (∀ j, j < 16 → hexDigit (bufferRead .kbuf s.kbuf j) ≠ none) →
      ∃ t, exec .ldkeyHex s = .next t ∧ t.errf = false)

/-- R222: after a successful key load the round keys and halves are still the old ones, `RKV` is 0, and every command that needs
the schedule faults; a failed load changes neither the key nor the flags nor the schedule, and they are as before after
`CLRERR`. -/
def Obligations.StaleScheduleIsNeverUsed : Prop :=
  ∀ (i : Instr) (s t : State), (i = .ldkeyHex ∨ i = .ldkeyRaw) → s.errf = false → exec i s = .next t →
    (t.rk = s.rk ∧ t.c = s.c ∧ t.d = s.d) ∧
    (t.errf = false → t.rkv = false ∧
      ∀ j, needsSchedule j = true → exec j t = .next (t.raise .scheduleNotLoaded)) ∧
    (t.errf = true → t.key = s.key ∧ t.kv = s.kv ∧ t.rkv = s.rkv ∧
      ∃ u, exec .clrerr t = .next u ∧ u.errf = false ∧ u.key = s.key ∧ u.kv = s.kv ∧ u.rkv = s.rkv ∧ u.rk = s.rk)

/-! ## Rounds and blocks -/

/-- R140, R141: `ROUND k` without a schedule faults `KeyNotLoaded(SCHEDULE)`; with one, `L` gets
`L xor permute(substitute(permute(R, 32, E) xor RK[k]), 32, P)` and nothing else changes. -/
def Obligations.RoundXorsTheRoundFunction : Prop :=
  (∀ k : Fin 16, (encode (.round k)).toNat = 0x40 + k.val) ∧
  ∀ (k : Fin 16) (s : State), s.errf = false →
    (s.rkv = false → exec (.round k) s = .next (s.raise .scheduleNotLoaded)) ∧
    (s.rkv = true → exec (.round k) s = .next
      { s with l := s.l ^^^ permute 32 tableP (substitute (permute 48 tableE s.r ^^^ s.rk[k])) })

/-- R152: one round is its own inverse, as a function and as a command. -/
def Obligations.RoundTwiceRestores : Prop :=
  (∀ (l r : Half) (k : RoundKey), (l ^^^ roundF r k) ^^^ roundF r k = l) ∧
  ∀ (k : Fin 16) (s : State), s.errf = false → s.rkv = true →
    ∃ t, exec (.round k) s = .next t ∧ exec (.round k) t = .next s

/-- R142, R143, R144: `SPLIT`, `SWAP` and `JOIN` move whole halves and write nothing else; `SPLIT` then `JOIN` leaves `W`, `JOIN`
then `SPLIT` leaves `L` and `R`, `SWAP` twice restores the state. -/
def Obligations.HalvesCommandsMoveHalves : Prop :=
  (encode .split = 0x50 ∧ encode .swap = 0x51 ∧ encode .join = 0x52) ∧
  ∀ s : State, s.errf = false →
    (exec .split s = .next { s with l := s.w.extractLsb' 32 32, r := s.w.extractLsb' 0 32 } ∧
      exec .swap s = .next { s with l := s.r, r := s.l } ∧
      exec .join s = .next { s with w := s.l ++ s.r }) ∧
    (∃ t, runCommands [.split, .join] s = .next t ∧ t.w = s.w) ∧
    (∃ t, runCommands [.join, .split] s = .next t ∧ t.l = s.l ∧ t.r = s.r) ∧
    runCommands [.swap, .swap] s = .next s

/-- R145's equivalent form: swap after all sixteen rounds and take the preoutput as `r ‖ l`. -/
def Obligations.FeistelEquivalentForm : Prop :=
  ∀ (x : Block) (ks : List RoundKey), ks.length = 16 →
    let y : Block := permute 64 tableIp x
    let h := ks.foldl (fun (p : Half × Half) k => (p.2, p.1 ^^^ roundF p.2 k)) (y.extractLsb' 32 32, y.extractLsb' 0 32)
    feistel16 x ks = { result := permute 64 tableFp (h.2 ++ h.1 : Block), lf := h.2, rf := h.1 }

/-- R147, R148: the block commands without a schedule fault `KeyNotLoaded(SCHEDULE)`; with one they write the result of
`feistel16` in `W` and the final halves in `L` and `R`, with the round keys from 0 to 15 or from 15 to 0. -/
def Obligations.BlockCommandsTransformW : Prop :=
  (encode .encblk = 0x60 ∧ encode .decblk = 0x61) ∧
  ∀ s : State, s.errf = false →
    (s.rkv = false → exec .encblk s = .next (s.raise .scheduleNotLoaded) ∧
      exec .decblk s = .next (s.raise .scheduleNotLoaded)) ∧
    (s.rkv = true →
      (let f := feistel16 s.w [s.rk[0], s.rk[1], s.rk[2], s.rk[3], s.rk[4], s.rk[5], s.rk[6], s.rk[7], s.rk[8], s.rk[9],
          s.rk[10], s.rk[11], s.rk[12], s.rk[13], s.rk[14], s.rk[15]]
       exec .encblk s = .next { s with w := f.result, l := f.lf, r := f.rf }) ∧
      (let f := feistel16 s.w [s.rk[15], s.rk[14], s.rk[13], s.rk[12], s.rk[11], s.rk[10], s.rk[9], s.rk[8], s.rk[7],
          s.rk[6], s.rk[5], s.rk[4], s.rk[3], s.rk[2], s.rk[1], s.rk[0]]
       exec .decblk s = .next { s with w := f.result, l := f.lf, r := f.rf }))

/-- R150: decryption inverts encryption and encryption inverts decryption, for any sixteen round keys, as functions and as
commands. -/
def Obligations.BlockRoundTrip : Prop :=
  (∀ (rk : Vector RoundKey 16) (x : Block), desDec rk (desEnc rk x) = x ∧ desEnc rk (desDec rk x) = x) ∧
  ∀ s : State, s.errf = false → s.rkv = true →
    (∃ t, runCommands [.encblk, .decblk] s = .next t ∧ t.w = s.w) ∧
    (∃ t, runCommands [.decblk, .encblk] s = .next t ∧ t.w = s.w)

/-- R151: a block command and its expansion into 35 primitive commands end in the same state. -/
def Obligations.BlockCommandsEqualPrimitives : Prop :=
  (blockExpansion scheduleOrder).length = 35 ∧
  ∀ s : State, s.errf = false → s.rkv = true →
    runCommands (blockExpansion scheduleOrder) s = exec .encblk s ∧
    runCommands (blockExpansion scheduleOrder.reverse) s = exec .decblk s

/-- R153: what a block command leaves in `W`, `L` and `R` depends on `W` and the round keys and on nothing else. -/
def Obligations.BlockDependsOnWAndKeysOnly : Prop :=
  ∀ (i : Instr) (s s' : State), (i = .encblk ∨ i = .decblk) → s.errf = false → s'.errf = false →
    s.rkv = true → s'.rkv = true → s.w = s'.w → s.rk = s'.rk →
    ∃ t t', exec i s = .next t ∧ exec i s' = .next t' ∧ t.w = t'.w ∧ t.l = t'.l ∧ t.r = t'.r

/-! ## Padding and streams -/

/-- R160: `pad8` appends `k` bytes of value `k`, `k` from 1 to 8, and its length is `8 (floor(n / 8) + 1)`. -/
def Obligations.PadAppendsItsCount : Prop :=
  ∀ s : List Byte, ∃ k, 1 ≤ k ∧ k ≤ 8 ∧ k = 8 - s.length % 8 ∧ pad8 s = s ++ List.replicate k (BitVec.ofNat 8 k) ∧
    (pad8 s).length = 8 * (s.length / 8 + 1) ∧ (s.length % 8 = 0 → k = 8)

/-- R161 and R169: `unpad8` decides `LENGTH`, `EMPTY`, `PAD` in this order, looks at the last byte only, and undoes `pad8`. -/
def Obligations.UnpadLooksAtTheLastByte : Prop :=
  (∀ s : List Byte, unpad8 (pad8 s) = .ok s) ∧
  ∀ s : List Byte,
    (s.length % 8 ≠ 0 → unpad8 s = .error .malformedLength) ∧
    (s.length = 0 → unpad8 s = .error .malformedEmpty) ∧
    ∀ (u : List Byte) (b : Byte), s = u ++ [b] → s.length % 8 = 0 →
      (b = 0 ∨ 8 < b.toNat → unpad8 s = .error .malformedPad) ∧
      (1 ≤ b.toNat → b.toNat ≤ 8 → unpad8 s = .ok (s.take (s.length - b.toNat)))

/-- R162: `PAD` puts out the input followed by the pad bytes, sets `OLEN`, leaves no value beyond `OLEN`, and changes nothing
else. -/
def Obligations.PadWritesThePaddedInput : Prop :=
  encode .pad = 0x70 ∧
  ∀ s : State, s.errf = false → s.ilen.toNat ≤ s.bufMax →
    ∃ t : State, exec .pad s = .next t ∧ t = { s with obuf := t.obuf, olen := t.olen } ∧
      t.olen.toNat = 8 * (s.ilen.toNat / 8 + 1) ∧
      (∀ j, j < s.ilen.toNat → bufferRead .obuf t.obuf j = bufferRead .ibuf s.ibuf j) ∧
      (∀ j, s.ilen.toNat ≤ j → j < t.olen.toNat → (bufferRead .obuf t.obuf j).toNat = 8 - s.ilen.toNat % 8) ∧
      ∀ j, t.olen.toNat ≤ j → memoryRead t.obuf.cells j = none

/-- R163: `UNPAD` faults `LENGTH`, `EMPTY` or `PAD`, or puts out the input less its last `k` bytes, `k` the last byte. -/
def Obligations.UnpadStripsOrFaults : Prop :=
  encode .unpad = 0x71 ∧
  ∀ s : State, s.errf = false →
    (s.ilen.toNat % 8 ≠ 0 → exec .unpad s = .next (s.raise .malformedLength)) ∧
    (s.ilen = 0 → exec .unpad s = .next (s.raise .malformedEmpty)) ∧
    (s.ilen.toNat % 8 = 0 → s.ilen ≠ 0 →
      let k := (bufferRead .ibuf s.ibuf (s.ilen.toNat - 1)).toNat
      (k = 0 ∨ 8 < k → exec .unpad s = .next (s.raise .malformedPad)) ∧
      (1 ≤ k → k ≤ 8 → ∃ t : State, exec .unpad s = .next t ∧ t = { s with obuf := t.obuf, olen := t.olen } ∧
        t.olen.toNat = s.ilen.toNat - k ∧
        (∀ j, j < t.olen.toNat → bufferRead .obuf t.obuf j = bufferRead .ibuf s.ibuf j) ∧
        ∀ j, t.olen.toNat ≤ j → memoryRead t.obuf.cells j = none))

/-- R164: `ENCBYTES` without a schedule faults; with one, output chunk `j` is the encryption of chunk `j` of the padded input, and
nothing but `OBUF` and `OLEN` changes. -/
def Obligations.EncbytesEncryptsEveryChunk : Prop :=
  encode .encbytes = 0x80 ∧
  ∀ s : State, s.errf = false →
    (s.rkv = false → exec .encbytes s = .next (s.raise .scheduleNotLoaded)) ∧
    (s.rkv = true → s.ilen.toNat ≤ s.bufMax →
      ∃ t : State, exec .encbytes s = .next t ∧ t = { s with obuf := t.obuf, olen := t.olen } ∧
        t.olen.toNat = 8 * (s.ilen.toNat / 8 + 1) ∧
        (∀ j, j < s.ilen.toNat / 8 + 1 →
          (List.range 8).map (fun i => bufferRead .obuf t.obuf (8 * j + i)) =
            bytes8 (desEnc s.rk (be64 (((pad8 s.input).drop (8 * j)).take 8)))) ∧
        ∀ j, t.olen.toNat ≤ j → memoryRead t.obuf.cells j = none)

/-- R165: `DECBYTES` faults in its order, or puts out the concatenated decrypted chunks less their last `k` bytes; nothing but
`OBUF` and `OLEN` changes. -/
def Obligations.DecbytesDecryptsAndStrips : Prop :=
  encode .decbytes = 0x81 ∧
  ∀ s : State, s.errf = false →
    (s.rkv = false → exec .decbytes s = .next (s.raise .scheduleNotLoaded)) ∧
    (s.rkv = true → s.ilen.toNat % 8 ≠ 0 → exec .decbytes s = .next (s.raise .malformedLength)) ∧
    (s.rkv = true → s.ilen = 0 → exec .decbytes s = .next (s.raise .malformedEmpty)) ∧
    (s.rkv = true → s.ilen.toNat % 8 = 0 → s.ilen ≠ 0 →
      let full := (List.range (s.ilen.toNat / 8)).flatMap fun j =>
        bytes8 (desDec s.rk (be64 ((s.input.drop (8 * j)).take 8)))
      let k := (full.getD (s.ilen.toNat - 1) 0).toNat
      (k = 0 ∨ 8 < k → exec .decbytes s = .next (s.raise .malformedPad)) ∧
      (1 ≤ k → k ≤ 8 → ∃ t : State, exec .decbytes s = .next t ∧ t = { s with obuf := t.obuf, olen := t.olen } ∧
        t.olen.toNat = s.ilen.toNat - k ∧
        (∀ j, j < t.olen.toNat → bufferRead .obuf t.obuf j = full.getD j 0) ∧
        ∀ j, t.olen.toNat ≤ j → memoryRead t.obuf.cells j = none))

/-- R166: the stream commands write `OBUF`, `OLEN` and, on a fault, `ERR`, and nothing else. -/
def Obligations.StreamCommandsWriteOutputOnly : Prop :=
  ∀ (i : Instr) (s t : State), isStream i = true → exec i s = .next t →
    t = { s with obuf := t.obuf, olen := t.olen, err := t.err } ∧
    (∀ a, bufferRead .kbuf t.kbuf a = bufferRead .kbuf s.kbuf a) ∧
    (∀ a, bufferRead .ibuf t.ibuf a = bufferRead .ibuf s.ibuf a) ∧
    (t.errf = false → t.err = s.err)

/-- R167: load a key, `KSCHED`, `ENCBYTES`; in any state with that schedule whose input is that output, `DECBYTES` records no fault
and puts out the plaintext. When the plaintext is `BUF_MAX` bytes long the output has `BUF_MAX` + 8, a number that R180 does
not let the host write to `ILEN`: of that length the statement says what `DECBYTES` does in such a state, though no run
reaches one (log entry 8). -/
def Obligations.StreamRoundTrip : Prop :=
  ∀ s s₁ : State, s.errf = false → (exec .ldkeyHex s = .next s₁ ∨ exec .ldkeyRaw s = .next s₁) → s₁.errf = false →
    s.ilen.toNat ≤ s.bufMax →
    ∃ t : State, runCommands [.ksched, .encbytes] s₁ = .next t ∧ t.errf = false ∧
      ∀ u : State, u.errf = false → u.rkv = true → u.rk = t.rk → u.ilen = t.olen →
        (∀ j, j < t.olen.toNat → bufferRead .ibuf u.ibuf j = bufferRead .obuf t.obuf j) →
        ∃ v : State, exec .decbytes u = .next v ∧ v.errf = false ∧ v.olen = s.ilen ∧
          ∀ j, j < s.ilen.toNat → bufferRead .obuf v.obuf j = bufferRead .ibuf s.ibuf j

/-- The byte-level contract of R171 over the sequences of R76, from any state with no fault recorded that can hold the payload. With a
key text of 16 hex digits `encryptBytes` gives a ciphertext of the length of R168 and never fails, `decryptBytes` of it under
that text gives the plaintext, and `decryptBytes` of any payload gives bytes or fails with `MalformedCiphertext`: with `LENGTH` when the
length is no multiple of 8, with `EMPTY` when the payload is empty. With any other key text, also one above 32 bytes, both
fail with `InvalidKey`. A failure's reply is the value of `ERR`, and `OBUF` is not read. The pseudo-instructions `ENCRYPT` and `DECRYPT`
read the same bytes, and none on a failure. (Which 32 bytes of a longer key text the host writes is the model's choice, log
entry 9.) -/
def Obligations.EncryptThenDecryptGivesThePlaintext : Prop :=
  ∀ (h b : List Byte) (s : State), s.errf = false → b.length ≤ s.bufMax →
    (h.length = 16 ∧ (∀ c ∈ h, hexDigit c ≠ none) →
      (∃ bs : List Byte, bs.length = 8 * (b.length / 8 + 1) ∧
        (∃ t, encryptBytes h b s = .next t ∧ t.errf = false ∧ t.reply = .bytes bs) ∧
        (∃ t, encryptSequence h b s = .next t ∧ t.errf = false ∧ t.reply = .bytes bs) ∧
        ∀ u : State, u.errf = false → bs.length ≤ u.bufMax →
          (∃ v, decryptBytes h bs u = .next v ∧ v.errf = false ∧ v.reply = .bytes b) ∧
          ∃ v, decryptSequence h bs u = .next v ∧ v.errf = false ∧ v.reply = .bytes b) ∧
      ∃ t, decryptBytes h b s = .next t ∧
        ((t.err = .clear ∧ ∃ bs, t.reply = .bytes bs) ∨ (t.err.code = 2 ∧ t.reply = .value (zext64 t.err.byte))) ∧
        (b.length % 8 ≠ 0 → t.err = .malformedLength) ∧ (b = [] → t.err = .malformedEmpty)) ∧
    (h.length ≠ 16 ∨ (∃ c ∈ h, hexDigit c = none) →
      ∀ i, i = Instr.encbytes ∨ i = Instr.decbytes →
        (∃ t, runThen (streamLines i h b) readResult s = .next t ∧ t.err.code = 1 ∧ t.olen = 0 ∧
          t.reply = .value (zext64 t.err.byte)) ∧
        ∃ t, runThen (streamLines i h b) readOutput s = .next t ∧ t.err.code = 1 ∧ t.olen = 0 ∧ t.reply = .bytes [])

/-- R168: the lengths after a successful `ENCBYTES` and a successful `DECBYTES`. -/
def Obligations.StreamLengths : Prop :=
  ∀ s t : State, s.errf = false → s.ilen.toNat ≤ s.bufMax → t.errf = false →
    (exec .encbytes s = .next t → t.olen.toNat = 8 * (s.ilen.toNat / 8 + 1) ∧ t.olen.toNat % 8 = 0 ∧
      s.ilen.toNat + 1 ≤ t.olen.toNat ∧ t.olen.toNat ≤ s.ilen.toNat + 8) ∧
    (exec .decbytes s = .next t → s.ilen.toNat ≤ t.olen.toNat + 8 ∧ t.olen.toNat + 1 ≤ s.ilen.toNat)

/-- R170: the output of a stream command depends on the input bytes and the round keys only, and two equal 8-byte chunks of plaintext
give two equal chunks of ciphertext. -/
def Obligations.StreamsAreDeterministicChunkwise : Prop :=
  (∀ (i : Instr) (s s' : State), (i = .encbytes ∨ i = .decbytes) → s.errf = false → s'.errf = false →
    s.rkv = true → s'.rkv = true → s.rk = s'.rk → s.ilen = s'.ilen → s.ilen.toNat ≤ s.bufMax →
    (∀ j, j < s.ilen.toNat → bufferRead .ibuf s.ibuf j = bufferRead .ibuf s'.ibuf j) →
    ∃ t t' : State, exec i s = .next t ∧ exec i s' = .next t' ∧ t.err = t'.err ∧ t.olen = t'.olen ∧
      ∀ j, j < t.olen.toNat → bufferRead .obuf t.obuf j = bufferRead .obuf t'.obuf j) ∧
  ∀ (s : State) (a b : Nat), s.errf = false → s.rkv = true → s.ilen.toNat ≤ s.bufMax →
    a < s.ilen.toNat / 8 → b < s.ilen.toNat / 8 →
    (∀ i, i < 8 → bufferRead .ibuf s.ibuf (8 * a + i) = bufferRead .ibuf s.ibuf (8 * b + i)) →
    ∃ t : State, exec .encbytes s = .next t ∧
      ∀ i, i < 8 → bufferRead .obuf t.obuf (8 * a + i) = bufferRead .obuf t.obuf (8 * b + i)

/-! ## Registers, buffers and transactions -/

/-- R27. The bits: `KV`, `RKV` and `ERRF` are bits 0, 1 and 2 of `STATUS`, the others read as zero, and `ERRF` is 1 exactly when
`ERR[2:0]` is not zero. What changes them: `KV` is set by a successful key load and cleared only by `Reset`; `RKV` is set by a
successful `KSCHED` and cleared by a successful key load and by `Reset`; no other command or transaction changes either. Who reads
them: `KSCHED` reads `KV`, the commands that need the schedule read `RKV`. -/
def Obligations.StatusFlagsChangeOnlyAsStated : Prop :=
  (∀ s : State, s.status.getLsbD 0 = s.kv ∧ s.status.getLsbD 1 = s.rkv ∧
    (s.status.getLsbD 2 = true ↔ s.err.byte.extractLsb' 0 3 ≠ 0) ∧ ∀ j, 3 ≤ j → s.status.getLsbD j = false) ∧
  (∀ (i : Instr) (s t : State), exec i s = .next t →
    (t.kv ≠ s.kv → (i = .ldkeyHex ∨ i = .ldkeyRaw) ∧ t.kv = true) ∧
    (t.rkv ≠ s.rkv → (i = .ksched ∧ t.rkv = true) ∨ ((i = .ldkeyHex ∨ i = .ldkeyRaw) ∧ t.rkv = false)) ∧
    (s.errf = false → t.errf = false → (i = .ldkeyHex ∨ i = .ldkeyRaw) → t.kv = true ∧ t.rkv = false) ∧
    (s.errf = false → t.errf = false → i = .ksched → t.rkv = true)) ∧
  (∀ s t : State, perform .reset s = .next t → t.kv = false ∧ t.rkv = false) ∧
  (∀ s : State, s.errf = false → (exec .ksched s = .next (s.raise .keyNotLoaded) ↔ s.kv = false)) ∧
  (∀ (i : Instr) (s : State), s.errf = false → needsSchedule i = true →
    (exec i s = .next (s.raise .scheduleNotLoaded) ↔ s.rkv = false)) ∧
  ∀ (x : Transaction) (s t : State), perform x s = .next t → x ≠ .reset → (∀ v, x ≠ .writeReg 0x20 v) →
    t.kv = s.kv ∧ t.rkv = s.rkv

/-- The frame of every command over the registers, the column "written by" of R20: a command changes a register only if the
table names it there. -/
def Obligations.RegistersWrittenOnlyByTheirCommands : Prop :=
  ∀ (i : Instr) (s t : State), exec i s = .next t →
    (t.w ≠ s.w → i ∈ [.permIp, .permFp, .permE, .permP, .permPc1, .permPc2, .subst, .join, .encblk, .decblk]) ∧
    (t.l ≠ s.l → i ∈ [.split, .swap, .encblk, .decblk] ∨ ∃ k, i = .round k) ∧
    (t.r ≠ s.r → i ∈ [.split, .swap, .encblk, .decblk]) ∧
    (t.key ≠ s.key → i = .ldkeyHex ∨ i = .ldkeyRaw) ∧
    (t.c ≠ s.c ∨ t.d ≠ s.d ∨ t.rk ≠ s.rk → i = .ksched) ∧
    (t.olen ≠ s.olen → isStream i = true ∨ t.errf = true) ∧
    (t.err ≠ s.err → i = .clrerr ∨ t.err ∈ raisable i) ∧
    t.klen = s.klen ∧ t.ilen = s.ilen ∧ t.bufBlocks = s.bufBlocks ∧ t.pending = s.pending ∧ t.reply = s.reply

/-- The frame of every command over memory (R50, R51, R225): `KBUF` and `IBUF` read as before at every address; `OBUF` too, unless the
command is a stream command or records a fault; then exactly the addresses below `OLEN` hold a value. -/
def Obligations.CommandsKeepMemory : Prop :=
  ∀ (i : Instr) (s t : State), s.ilen.toNat ≤ s.bufMax → exec i s = .next t →
    (∀ a, bufferRead .kbuf t.kbuf a = bufferRead .kbuf s.kbuf a) ∧
    (∀ a, bufferRead .ibuf t.ibuf a = bufferRead .ibuf s.ibuf a) ∧
    (isStream i = false → t.err = s.err ∨ t.errf = false → ∀ a, bufferRead .obuf t.obuf a = bufferRead .obuf s.obuf a) ∧
    (s.errf = false → isStream i = true ∨ t.errf = true →
      ∀ a, memoryRead t.obuf.cells a ≠ none ↔ a < t.olen.toNat)

/-- R180, `ReadReg`: what each register number returns, as a number; `CMD` and unassigned numbers return 0. A read changes
nothing but the reply. -/
def Obligations.ReadRegReturnsTheRegister : Prop :=
  ∀ (s : State) (n : BitVec 8), ∃ v : Block, perform (.readReg n) s = .next { s with reply := .value v } ∧
    v.toNat =
      (if n = 0x00 then s.w.toNat else if n = 0x01 then s.l.toNat else if n = 0x02 then s.r.toNat
       else if n = 0x03 then s.key.toNat else if n = 0x04 then s.c.toNat else if n = 0x05 then s.d.toNat
       else if 0x10 ≤ n.toNat ∧ n.toNat ≤ 0x1F then (s.rk.toList.getD (n.toNat - 0x10) 0).toNat
       else if n = 0x21 then s.kv.toNat + 2 * s.rkv.toNat + 4 * s.errf.toNat
       else if n = 0x22 then 16 * s.err.sub.toNat + s.err.code.toNat
       else if n = 0x23 then s.klen.toNat else if n = 0x24 then s.ilen.toNat else if n = 0x25 then s.olen.toNat
       else 0)

/-- R180, R30, R31, `WriteReg` to any number but `CMD`: the low bits are taken by `W`, `L`, `R`; `KLEN` and `ILEN` take a value in
range, compared as a 64-bit number, and ignore another; a read-only or unassigned register ignores the write. -/
def Obligations.WriteRegTakesWhatIsInRange : Prop :=
  ∀ (s : State) (n : BitVec 8) (v : Block), n ≠ 0x20 →
    perform (.writeReg n v) s = .next
      (if n = 0x00 then { s with w := v } else if n = 0x01 then { s with l := v.extractLsb' 0 32 }
       else if n = 0x02 then { s with r := v.extractLsb' 0 32 }
       else if n = 0x23 ∧ v.toNat ≤ 32 then { s with klen := v.extractLsb' 0 32 }
       else if n = 0x24 ∧ v.toNat ≤ s.bufMax then { s with ilen := v.extractLsb' 0 32 }
       else s)

/-- R53: a defined `MemWrite` puts its bytes at its addresses and leaves every other byte, the other buffers and every
register; a defined `MemRead` returns the bytes and changes nothing; any other buffer access is refused. -/
def Obligations.HostAccessReadsAndWritesBytes : Prop :=
  (∀ (space : Space) (a n : Nat) (bs : List Byte) (s : State), space ≠ .obuf → bs.length = n → a + n ≤ s.capacity space →
    ∃ t : State, perform (.memWrite space a n bs) s = .next t ∧ t = { s with kbuf := t.kbuf, ibuf := t.ibuf } ∧
      (∀ j, j < n → bufferRead space (t.buffer space) (a + j) = bs.getD j 0) ∧
      (∀ b, b < a ∨ a + n ≤ b → bufferRead space (t.buffer space) b = bufferRead space (s.buffer space) b) ∧
      ∀ other, other ≠ space → t.buffer other = s.buffer other) ∧
  (∀ (space : Space) (a n : Nat) (bs : List Byte) (s : State),
    (space = .obuf ∨ bs.length ≠ n ∨ s.capacity space < a + n) →
    ∃ r, perform (.memWrite space a n bs) s = .refused r) ∧
  (∀ (space : Space) (a n : Nat) (s : State), a + n ≤ s.capacity space →
    perform (.memRead space a n) s =
      .next { s with reply := .bytes ((List.range n).map fun i => bufferRead space (s.buffer space) (a + i)) }) ∧
  ∀ (space : Space) (a n : Nat) (s : State), s.capacity space < a + n →
    perform (.memRead space a n) s = .refused (.outsideBuffer space)

/-- R220, R33: `Reset`, in any state, gives every register its reset value and leaves no buffer byte with a value, as
`State.reset` has them; a `KSCHED` then faults. With this hardware's tables `ERR` is 0; with tables that fail the check it
would be 0x04, and then no word written to `CMD` does anything. -/
def Obligations.ResetGivesTheResetValues : Prop :=
  (∀ s : State, ∃ t : State, perform .reset s = .next t ∧ t.bufBlocks = s.bufBlocks ∧ t.pending = s.pending ∧
    ∀ u : State, u = t ∨ u = State.reset →
      u.w = 0 ∧ u.l = 0 ∧ u.r = 0 ∧ u.key = 0 ∧ u.c = 0 ∧ u.d = 0 ∧ (∀ i : Fin 16, u.rk[i] = 0) ∧
      u.kv = false ∧ u.rkv = false ∧ u.klen = 0 ∧ u.ilen = 0 ∧ u.olen = 0 ∧ u.err.byte = 0x00 ∧
      (∀ (space : Space) (a : Nat), memoryRead (u.buffer space).cells a = none) ∧
      exec .ksched u = .next (u.raise .keyNotLoaded)) ∧
  (∀ (tables : Tables) (s : State),
    (s.resetCore tables).err.byte = if tablesValid tables = true then 0x00 else 0x04) ∧
  ∀ (v : Block) (s : State), s.err.byte = 0x04 → writeCommand v s = .next s

/-! ## Invariants -/

/-- Every step keeps the invariant of lengths, buffers and `ERR`: the memories stay canonical and inside their capacities, the
lengths stay in range, `OBUF` holds exactly `OBUF[0..OLEN)`, a recorded fault means `OLEN` = 0, and
`ConfigurationError` is never recorded. -/
def Obligations.StepKeepsTheBufferInvariant : Prop :=
  ∀ s t : State, BufferInv s → step s = .next t → BufferInv t

/-- Every step keeps what `RKV` promises: whenever it is 1 a key is loaded, and `RK`, `C`, `D` are the schedule of `KEY`. -/
def Obligations.StepKeepsTheScheduleInvariant : Prop :=
  ∀ s t : State, ScheduleInv s → step s = .next t → ScheduleInv t

/-- Both invariants hold after `Reset`. -/
def Obligations.InvariantsAtReset : Prop := BufferInv State.reset ∧ ScheduleInv State.reset

/-- The parameter `BUF_MAX` is legal in every state and no step changes it (R5; that it rides in the state is the model's choice,
log entry 2). -/
def Obligations.BufMaxIsLegalAndFixed : Prop :=
  (∀ s : State, 8 ≤ s.bufMax ∧ s.bufMax ≤ 2 ^ 32 - 16 ∧ s.bufMax % 8 = 0) ∧
  ∀ s t : State, step s = .next t → t.bufMax = s.bufMax

/-- A step stops only on a buffer access outside R53 (R182, R202: "Stuck: never"): it is refused, and nothing else ever stops.
Two clauses are the model's: that a read inside the capacity of a byte nothing has written is not refused is log entry 3 (DESIGN CHOICE:
U1 to U3 say "any value", R202 lists such a read under "Refused"), and that no step ends in a fault is log entry 4
(DEDUCED: the spec's faults are next states, so the type `Fault` is empty). -/
def Obligations.OnlyUndefinedBufferAccessStops : Prop :=
  (∀ (s : State) (r : Fault), step s ≠ .fault r) ∧
  ∀ (s : State) (r : Refusal), step s = .refused r →
    (∃ space a n bs rest, s.pending = .memWrite space a n bs :: rest ∧
      (space = .obuf ∨ bs.length ≠ n ∨ s.capacity space < a + n)) ∨
    ∃ space a n rest, s.pending = .memRead space a n :: rest ∧ s.capacity space < a + n

end
end

