-- ==== Sys2Proof/Laws/Memory.lean ====
section
/-! SUPPORT. Laws of memories and buffers: every operation keeps the canonical form, and what reading after writing gives. -/

namespace Sys2Proof.Machine

/-! ## The canonical form -/

theorem memoryWf_tail {x : Host.Cell} {m : Memory} (h : memoryWf (x :: m) = true) : memoryWf m = true := by
  cases m with
  | nil => rfl
  | cons y rest => simp only [memoryWf, Bool.and_eq_true] at h; exact h.2

theorem memoryWf_cons {x : Host.Cell} {m : Memory} (hm : memoryWf m = true) (h : ∀ y ∈ m, x.1 < y.1) :
    memoryWf (x :: m) = true := by
  cases m with
  | nil => rfl
  | cons y rest => simp [memoryWf, hm, h y (by simp)]

/-- The head's address is below every other. -/
theorem memoryWf_head_lt {x : Host.Cell} {m : Memory} (h : memoryWf (x :: m) = true) : ∀ y ∈ m, x.1 < y.1 := by
  induction m generalizing x with
  | nil => simp
  | cons z rest ih =>
    simp only [memoryWf, Bool.and_eq_true, decide_eq_true_eq] at h
    intro y hy
    rcases List.mem_cons.mp hy with rfl | hy
    · exact h.1
    · exact Nat.lt_trans h.1 (ih h.2 y hy)

/-- A write adds no cell but its own. -/
theorem mem_memoryWrite {m : Memory} {a : Nat} {b : Byte} {x : Host.Cell} (h : x ∈ memoryWrite m a b) :
    x = (a, b) ∨ x ∈ m := by
  induction m with
  | nil => simpa [memoryWrite] using h
  | cons y rest ih =>
    simp only [memoryWrite] at h
    split at h
    · simpa using h
    · split at h
      · rcases List.mem_cons.mp h with h | h
        · exact .inl h
        · exact .inr (List.mem_cons_of_mem _ h)
      · rcases List.mem_cons.mp h with h | h
        · exact .inr (h ▸ List.mem_cons_self)
        · exact (ih h).imp_right (List.mem_cons_of_mem _)

theorem memoryWrite_wf {m : Memory} (h : memoryWf m = true) (a : Nat) (b : Byte) :
    memoryWf (memoryWrite m a b) = true := by
  induction m with
  | nil => rfl
  | cons x rest ih =>
    have hlt := memoryWf_head_lt h
    simp only [memoryWrite]
    split
    · rename_i hax
      refine memoryWf_cons h fun y hy => ?_
      rcases List.mem_cons.mp hy with rfl | hy
      · exact hax
      · exact Nat.lt_trans hax (hlt y hy)
    · split
      · rename_i hax
        exact memoryWf_cons (memoryWf_tail h) fun y hy => hax ▸ hlt y hy
      · refine memoryWf_cons (ih (memoryWf_tail h)) fun y hy => ?_
        rcases mem_memoryWrite hy with rfl | hy
        · simp only; omega
        · exact hlt y hy

theorem memoryWriteBytes_wf {m : Memory} (h : memoryWf m = true) (a : Nat) (bs : List Byte) :
    memoryWf (memoryWriteBytes m a bs) = true := by
  induction bs generalizing m a with
  | nil => exact h
  | cons b bs ih => exact ih (memoryWrite_wf h a b) (a + 1)

theorem bufferWriteBytes_wf {buf : Buffer} (h : memoryWf buf.cells = true) (a : Nat) (bs : List Byte) :
    memoryWf (bufferWriteBytes buf a bs).cells = true := memoryWriteBytes_wf h a bs

theorem bufferVoid_wf (buf : Buffer) : memoryWf (bufferVoid buf).cells = true := rfl

/-- Every memory of the state after `Reset` is in canonical form. -/
theorem reset_memories_wf : memoryWf State.reset.kbuf.cells = true ∧ memoryWf State.reset.ibuf.cells = true ∧
    memoryWf State.reset.obuf.cells = true := ⟨rfl, rfl, rfl⟩

/-- The bytes written by `memoryWriteBytes` stand at the addresses from `a` up, and nowhere else. -/
theorem mem_memoryWriteBytes {m : Memory} {a : Nat} {bs : List Byte} {x : Host.Cell}
    (h : x ∈ memoryWriteBytes m a bs) : (a ≤ x.1 ∧ x.1 < a + bs.length) ∨ x ∈ m := by
  induction bs generalizing m a with
  | nil => exact .inr h
  | cons b bs ih =>
    rcases ih h with h | h
    · simp only [List.length_cons]; omega
    · rcases mem_memoryWrite h with rfl | h
      · simp
      · exact .inr h

/-! ## Reading -/

/-- A read after a write gives the byte written there, and what it gave before elsewhere. -/
theorem memoryRead_memoryWrite (m : Memory) (a c : Nat) (b : Byte) :
    memoryRead (memoryWrite m a b) c = if c = a then some b else memoryRead m c := by
  induction m with
  | nil =>
    by_cases h : c = a
    · simp [memoryWrite, memoryRead, h]
    · simp [memoryWrite, memoryRead, h, Ne.symm h]
  | cons x rest ih =>
    simp only [memoryWrite]
    split
    · simp only [memoryRead, eq_comm]
    · split
      · rename_i h
        subst h
        by_cases hc : c = x.1
        · simp [memoryRead, hc]
        · simp [memoryRead, hc, Ne.symm hc]
      · rename_i h
        simp only [memoryRead, ih]
        by_cases hx : x.1 = c
        · rw [if_pos hx, if_neg (by omega), if_pos hx]
        · rw [if_neg hx, if_neg hx]

/-- A read after a write of several bytes. -/
theorem memoryRead_memoryWriteBytes (m : Memory) (a c : Nat) (bs : List Byte) :
    memoryRead (memoryWriteBytes m a bs) c = if a ≤ c ∧ c < a + bs.length then bs[c - a]? else memoryRead m c := by
  induction bs generalizing m a with
  | nil => simp [memoryWriteBytes]
  | cons b bs ih =>
    simp only [memoryWriteBytes, ih, memoryRead_memoryWrite, List.length_cons]
    by_cases h1 : a + 1 ≤ c ∧ c < a + 1 + bs.length
    · have h2 : c - a = (c - (a + 1)) + 1 := by omega
      rw [if_pos h1, if_pos (by omega), h2, List.getElem?_cons_succ]
    · rw [if_neg h1]
      by_cases h3 : c = a
      · subst h3; simp
      · rw [if_neg h3, if_neg (by omega)]

/-- Two memories in canonical form that read alike everywhere are the same list. -/
theorem memory_ext {m m' : Memory} (h : memoryWf m = true) (h' : memoryWf m' = true)
    (hr : ∀ a, memoryRead m a = memoryRead m' a) : m = m' := by
  induction m generalizing m' with
  | nil =>
    cases m' with
    | nil => rfl
    | cons y rest' => simpa [memoryRead] using hr y.1
  | cons x rest ih =>
    cases m' with
    | nil => simpa [memoryRead] using hr x.1
    | cons y rest' =>
      have above : ∀ {z : Host.Cell} {k : Memory} {a : Nat}, memoryWf (z :: k) = true → a ≤ z.1 →
          memoryRead k a = none := by
        intro z k a hk ha
        have hlt := memoryWf_head_lt hk
        clear hk ih hr
        induction k with
        | nil => rfl
        | cons u us ihu =>
          have := hlt u (by simp)
          rw [memoryRead, if_neg (by omega)]
          exact ihu fun v hv => hlt v (by simp [hv])
      have hxy : x.1 = y.1 := by
        by_contra hne
        rcases Nat.lt_or_gt_of_ne hne with hl | hl
        · have := hr x.1
          rw [memoryRead, if_pos rfl, memoryRead, if_neg (by omega), above h' (by omega)] at this
          simp at this
        · have := hr y.1
          rw [memoryRead, if_neg (by omega), memoryRead, if_pos rfl, above h (by omega)] at this
          simp at this
      have hval : x.2 = y.2 := by
        have := hr x.1
        rw [memoryRead, if_pos rfl, memoryRead, if_pos hxy.symm] at this
        simpa using this
      have hx : x = y := Prod.ext hxy hval
      subst hx
      congr 1
      refine ih (memoryWf_tail h) (memoryWf_tail h') fun a => ?_
      by_cases ha : x.1 = a
      · rw [above h (by omega), above h' (by omega)]
      · have := hr a
        rwa [memoryRead, if_neg ha, memoryRead, if_neg ha] at this

/-! ## Buffers -/

@[simp] theorem bufferVoid_cells (buf : Buffer) : (bufferVoid buf).cells = [] := rfl

@[simp] theorem bufferWriteBytes_cells (buf : Buffer) (a : Nat) (bs : List Byte) :
    (bufferWriteBytes buf a bs).cells = memoryWriteBytes buf.cells a bs := rfl

@[simp] theorem bufferWriteBytes_voids (buf : Buffer) (a : Nat) (bs : List Byte) :
    (bufferWriteBytes buf a bs).voids = buf.voids := rfl

@[simp] theorem bufferReadBytes_length (space : Space) (buf : Buffer) (a n : Nat) :
    (bufferReadBytes space buf a n).length = n := by simp [bufferReadBytes]

theorem bufferReadBytes_getElem? (space : Space) (buf : Buffer) (a n j : Nat) (h : j < n) :
    (bufferReadBytes space buf a n)[j]? = some (bufferRead space buf (a + j)) := by
  simp [bufferReadBytes, h]

/-- Reading a buffer after writing bytes into it: the bytes written, and elsewhere what was read before. -/
theorem bufferRead_bufferWriteBytes (space : Space) (buf : Buffer) (a c : Nat) (bs : List Byte) :
    bufferRead space (bufferWriteBytes buf a bs) c =
      if a ≤ c ∧ c < a + bs.length then bs.getD (c - a) 0 else bufferRead space buf c := by
  simp only [bufferRead, bufferWriteBytes_cells, memoryRead_memoryWriteBytes, bufferWriteBytes_voids]
  by_cases h : a ≤ c ∧ c < a + bs.length
  · rw [if_pos h, if_pos h, List.getElem?_eq_getElem (by omega)]
    simp [List.getD_eq_getElem?_getD, List.getElem?_eq_getElem (show c - a < bs.length by omega)]
  · rw [if_neg h, if_neg h]

end Sys2Proof.Machine
end

