-- ==== Sys2Proof/Laws/State.lean ====
section
/-! SUPPORT. One lemma per field per update of State: what each named update leaves in each field. -/

namespace Sys2Proof.Machine

/-! ## A result written to `W` (R21). -/

@[simp] theorem State.setResult_w {n : Nat} (v : BitVec n) (s : State) : (s.setResult v).w = zext64 v := rfl
@[simp] theorem State.setResult_l {n : Nat} (v : BitVec n) (s : State) : (s.setResult v).l = s.l := rfl
@[simp] theorem State.setResult_r {n : Nat} (v : BitVec n) (s : State) : (s.setResult v).r = s.r := rfl
@[simp] theorem State.setResult_key {n : Nat} (v : BitVec n) (s : State) : (s.setResult v).key = s.key := rfl
@[simp] theorem State.setResult_c {n : Nat} (v : BitVec n) (s : State) : (s.setResult v).c = s.c := rfl
@[simp] theorem State.setResult_d {n : Nat} (v : BitVec n) (s : State) : (s.setResult v).d = s.d := rfl
@[simp] theorem State.setResult_rk {n : Nat} (v : BitVec n) (s : State) : (s.setResult v).rk = s.rk := rfl
@[simp] theorem State.setResult_kv {n : Nat} (v : BitVec n) (s : State) : (s.setResult v).kv = s.kv := rfl
@[simp] theorem State.setResult_rkv {n : Nat} (v : BitVec n) (s : State) : (s.setResult v).rkv = s.rkv := rfl
@[simp] theorem State.setResult_err {n : Nat} (v : BitVec n) (s : State) : (s.setResult v).err = s.err := rfl
@[simp] theorem State.setResult_klen {n : Nat} (v : BitVec n) (s : State) : (s.setResult v).klen = s.klen := rfl
@[simp] theorem State.setResult_ilen {n : Nat} (v : BitVec n) (s : State) : (s.setResult v).ilen = s.ilen := rfl
@[simp] theorem State.setResult_olen {n : Nat} (v : BitVec n) (s : State) : (s.setResult v).olen = s.olen := rfl
@[simp] theorem State.setResult_kbuf {n : Nat} (v : BitVec n) (s : State) : (s.setResult v).kbuf = s.kbuf := rfl
@[simp] theorem State.setResult_ibuf {n : Nat} (v : BitVec n) (s : State) : (s.setResult v).ibuf = s.ibuf := rfl
@[simp] theorem State.setResult_obuf {n : Nat} (v : BitVec n) (s : State) : (s.setResult v).obuf = s.obuf := rfl
@[simp] theorem State.setResult_bufBlocks {n : Nat} (v : BitVec n) (s : State) : (s.setResult v).bufBlocks = s.bufBlocks := rfl
@[simp] theorem State.setResult_pending {n : Nat} (v : BitVec n) (s : State) : (s.setResult v).pending = s.pending := rfl
@[simp] theorem State.setResult_reply {n : Nat} (v : BitVec n) (s : State) : (s.setResult v).reply = s.reply := rfl

/-! ## A successful key load (R121, R122). -/

@[simp] theorem State.loadKey_w (k : Block) (s : State) : (s.loadKey k).w = s.w := rfl
@[simp] theorem State.loadKey_l (k : Block) (s : State) : (s.loadKey k).l = s.l := rfl
@[simp] theorem State.loadKey_r (k : Block) (s : State) : (s.loadKey k).r = s.r := rfl
@[simp] theorem State.loadKey_key (k : Block) (s : State) : (s.loadKey k).key = k := rfl
@[simp] theorem State.loadKey_c (k : Block) (s : State) : (s.loadKey k).c = s.c := rfl
@[simp] theorem State.loadKey_d (k : Block) (s : State) : (s.loadKey k).d = s.d := rfl
@[simp] theorem State.loadKey_rk (k : Block) (s : State) : (s.loadKey k).rk = s.rk := rfl
@[simp] theorem State.loadKey_kv (k : Block) (s : State) : (s.loadKey k).kv = true := rfl
@[simp] theorem State.loadKey_rkv (k : Block) (s : State) : (s.loadKey k).rkv = false := rfl
@[simp] theorem State.loadKey_err (k : Block) (s : State) : (s.loadKey k).err = s.err := rfl
@[simp] theorem State.loadKey_klen (k : Block) (s : State) : (s.loadKey k).klen = s.klen := rfl
@[simp] theorem State.loadKey_ilen (k : Block) (s : State) : (s.loadKey k).ilen = s.ilen := rfl
@[simp] theorem State.loadKey_olen (k : Block) (s : State) : (s.loadKey k).olen = s.olen := rfl
@[simp] theorem State.loadKey_kbuf (k : Block) (s : State) : (s.loadKey k).kbuf = s.kbuf := rfl
@[simp] theorem State.loadKey_ibuf (k : Block) (s : State) : (s.loadKey k).ibuf = s.ibuf := rfl
@[simp] theorem State.loadKey_obuf (k : Block) (s : State) : (s.loadKey k).obuf = s.obuf := rfl
@[simp] theorem State.loadKey_bufBlocks (k : Block) (s : State) : (s.loadKey k).bufBlocks = s.bufBlocks := rfl
@[simp] theorem State.loadKey_pending (k : Block) (s : State) : (s.loadKey k).pending = s.pending := rfl
@[simp] theorem State.loadKey_reply (k : Block) (s : State) : (s.loadKey k).reply = s.reply := rfl

/-! ## What a block command writes (R147, R148). -/

@[simp] theorem State.setBlock_w (f : FeistelResult) (s : State) : (s.setBlock f).w = f.result := rfl
@[simp] theorem State.setBlock_l (f : FeistelResult) (s : State) : (s.setBlock f).l = f.lf := rfl
@[simp] theorem State.setBlock_r (f : FeistelResult) (s : State) : (s.setBlock f).r = f.rf := rfl
@[simp] theorem State.setBlock_key (f : FeistelResult) (s : State) : (s.setBlock f).key = s.key := rfl
@[simp] theorem State.setBlock_c (f : FeistelResult) (s : State) : (s.setBlock f).c = s.c := rfl
@[simp] theorem State.setBlock_d (f : FeistelResult) (s : State) : (s.setBlock f).d = s.d := rfl
@[simp] theorem State.setBlock_rk (f : FeistelResult) (s : State) : (s.setBlock f).rk = s.rk := rfl
@[simp] theorem State.setBlock_kv (f : FeistelResult) (s : State) : (s.setBlock f).kv = s.kv := rfl
@[simp] theorem State.setBlock_rkv (f : FeistelResult) (s : State) : (s.setBlock f).rkv = s.rkv := rfl
@[simp] theorem State.setBlock_err (f : FeistelResult) (s : State) : (s.setBlock f).err = s.err := rfl
@[simp] theorem State.setBlock_klen (f : FeistelResult) (s : State) : (s.setBlock f).klen = s.klen := rfl
@[simp] theorem State.setBlock_ilen (f : FeistelResult) (s : State) : (s.setBlock f).ilen = s.ilen := rfl
@[simp] theorem State.setBlock_olen (f : FeistelResult) (s : State) : (s.setBlock f).olen = s.olen := rfl
@[simp] theorem State.setBlock_kbuf (f : FeistelResult) (s : State) : (s.setBlock f).kbuf = s.kbuf := rfl
@[simp] theorem State.setBlock_ibuf (f : FeistelResult) (s : State) : (s.setBlock f).ibuf = s.ibuf := rfl
@[simp] theorem State.setBlock_obuf (f : FeistelResult) (s : State) : (s.setBlock f).obuf = s.obuf := rfl
@[simp] theorem State.setBlock_bufBlocks (f : FeistelResult) (s : State) : (s.setBlock f).bufBlocks = s.bufBlocks := rfl
@[simp] theorem State.setBlock_pending (f : FeistelResult) (s : State) : (s.setBlock f).pending = s.pending := rfl
@[simp] theorem State.setBlock_reply (f : FeistelResult) (s : State) : (s.setBlock f).reply = s.reply := rfl

/-! ## A stream command's output (R51). -/

@[simp] theorem State.output_w (bs : List Byte) (s : State) : (s.output bs).w = s.w := rfl
@[simp] theorem State.output_l (bs : List Byte) (s : State) : (s.output bs).l = s.l := rfl
@[simp] theorem State.output_r (bs : List Byte) (s : State) : (s.output bs).r = s.r := rfl
@[simp] theorem State.output_key (bs : List Byte) (s : State) : (s.output bs).key = s.key := rfl
@[simp] theorem State.output_c (bs : List Byte) (s : State) : (s.output bs).c = s.c := rfl
@[simp] theorem State.output_d (bs : List Byte) (s : State) : (s.output bs).d = s.d := rfl
@[simp] theorem State.output_rk (bs : List Byte) (s : State) : (s.output bs).rk = s.rk := rfl
@[simp] theorem State.output_kv (bs : List Byte) (s : State) : (s.output bs).kv = s.kv := rfl
@[simp] theorem State.output_rkv (bs : List Byte) (s : State) : (s.output bs).rkv = s.rkv := rfl
@[simp] theorem State.output_err (bs : List Byte) (s : State) : (s.output bs).err = s.err := rfl
@[simp] theorem State.output_klen (bs : List Byte) (s : State) : (s.output bs).klen = s.klen := rfl
@[simp] theorem State.output_ilen (bs : List Byte) (s : State) : (s.output bs).ilen = s.ilen := rfl
@[simp] theorem State.output_olen (bs : List Byte) (s : State) : (s.output bs).olen = BitVec.ofNat 32 bs.length := rfl
@[simp] theorem State.output_kbuf (bs : List Byte) (s : State) : (s.output bs).kbuf = s.kbuf := rfl
@[simp] theorem State.output_ibuf (bs : List Byte) (s : State) : (s.output bs).ibuf = s.ibuf := rfl
@[simp] theorem State.output_obuf (bs : List Byte) (s : State) : (s.output bs).obuf = bufferWriteBytes (bufferVoid s.obuf) 0 bs := rfl
@[simp] theorem State.output_bufBlocks (bs : List Byte) (s : State) : (s.output bs).bufBlocks = s.bufBlocks := rfl
@[simp] theorem State.output_pending (bs : List Byte) (s : State) : (s.output bs).pending = s.pending := rfl
@[simp] theorem State.output_reply (bs : List Byte) (s : State) : (s.output bs).reply = s.reply := rfl

/-! ## Fault entry (R193). -/

@[simp] theorem State.raise_w (e : Err) (s : State) : (s.raise e).w = s.w := rfl
@[simp] theorem State.raise_l (e : Err) (s : State) : (s.raise e).l = s.l := rfl
@[simp] theorem State.raise_r (e : Err) (s : State) : (s.raise e).r = s.r := rfl
@[simp] theorem State.raise_key (e : Err) (s : State) : (s.raise e).key = s.key := rfl
@[simp] theorem State.raise_c (e : Err) (s : State) : (s.raise e).c = s.c := rfl
@[simp] theorem State.raise_d (e : Err) (s : State) : (s.raise e).d = s.d := rfl
@[simp] theorem State.raise_rk (e : Err) (s : State) : (s.raise e).rk = s.rk := rfl
@[simp] theorem State.raise_kv (e : Err) (s : State) : (s.raise e).kv = s.kv := rfl
@[simp] theorem State.raise_rkv (e : Err) (s : State) : (s.raise e).rkv = s.rkv := rfl
@[simp] theorem State.raise_err (e : Err) (s : State) : (s.raise e).err = e := rfl
@[simp] theorem State.raise_klen (e : Err) (s : State) : (s.raise e).klen = s.klen := rfl
@[simp] theorem State.raise_ilen (e : Err) (s : State) : (s.raise e).ilen = s.ilen := rfl
@[simp] theorem State.raise_olen (e : Err) (s : State) : (s.raise e).olen = 0 := rfl
@[simp] theorem State.raise_kbuf (e : Err) (s : State) : (s.raise e).kbuf = s.kbuf := rfl
@[simp] theorem State.raise_ibuf (e : Err) (s : State) : (s.raise e).ibuf = s.ibuf := rfl
@[simp] theorem State.raise_obuf (e : Err) (s : State) : (s.raise e).obuf = bufferVoid s.obuf := rfl
@[simp] theorem State.raise_bufBlocks (e : Err) (s : State) : (s.raise e).bufBlocks = s.bufBlocks := rfl
@[simp] theorem State.raise_pending (e : Err) (s : State) : (s.raise e).pending = s.pending := rfl
@[simp] theorem State.raise_reply (e : Err) (s : State) : (s.raise e).reply = s.reply := rfl

/-! ## The transaction `Reset` (R220). -/

@[simp] theorem State.resetCore_w (t : Tables) (s : State) : (s.resetCore t).w = 0 := rfl
@[simp] theorem State.resetCore_l (t : Tables) (s : State) : (s.resetCore t).l = 0 := rfl
@[simp] theorem State.resetCore_r (t : Tables) (s : State) : (s.resetCore t).r = 0 := rfl
@[simp] theorem State.resetCore_key (t : Tables) (s : State) : (s.resetCore t).key = 0 := rfl
@[simp] theorem State.resetCore_c (t : Tables) (s : State) : (s.resetCore t).c = 0 := rfl
@[simp] theorem State.resetCore_d (t : Tables) (s : State) : (s.resetCore t).d = 0 := rfl
@[simp] theorem State.resetCore_rk (t : Tables) (s : State) : (s.resetCore t).rk = Vector.replicate 16 0 := rfl
@[simp] theorem State.resetCore_kv (t : Tables) (s : State) : (s.resetCore t).kv = false := rfl
@[simp] theorem State.resetCore_rkv (t : Tables) (s : State) : (s.resetCore t).rkv = false := rfl
@[simp] theorem State.resetCore_err (t : Tables) (s : State) : (s.resetCore t).err = resetErr t := by simp only [State.resetCore]
@[simp] theorem State.resetCore_klen (t : Tables) (s : State) : (s.resetCore t).klen = 0 := rfl
@[simp] theorem State.resetCore_ilen (t : Tables) (s : State) : (s.resetCore t).ilen = 0 := rfl
@[simp] theorem State.resetCore_olen (t : Tables) (s : State) : (s.resetCore t).olen = 0 := rfl
@[simp] theorem State.resetCore_kbuf (t : Tables) (s : State) : (s.resetCore t).kbuf = bufferVoid s.kbuf := rfl
@[simp] theorem State.resetCore_ibuf (t : Tables) (s : State) : (s.resetCore t).ibuf = bufferVoid s.ibuf := rfl
@[simp] theorem State.resetCore_obuf (t : Tables) (s : State) : (s.resetCore t).obuf = bufferVoid s.obuf := rfl
@[simp] theorem State.resetCore_bufBlocks (t : Tables) (s : State) : (s.resetCore t).bufBlocks = s.bufBlocks := rfl
@[simp] theorem State.resetCore_pending (t : Tables) (s : State) : (s.resetCore t).pending = s.pending := rfl
@[simp] theorem State.resetCore_reply (t : Tables) (s : State) : (s.resetCore t).reply = s.reply := rfl

/-! ## Taking the next transaction off the list. -/

@[simp] theorem State.take_w (ts : List Transaction) (s : State) : (s.take ts).w = s.w := rfl
@[simp] theorem State.take_l (ts : List Transaction) (s : State) : (s.take ts).l = s.l := rfl
@[simp] theorem State.take_r (ts : List Transaction) (s : State) : (s.take ts).r = s.r := rfl
@[simp] theorem State.take_key (ts : List Transaction) (s : State) : (s.take ts).key = s.key := rfl
@[simp] theorem State.take_c (ts : List Transaction) (s : State) : (s.take ts).c = s.c := rfl
@[simp] theorem State.take_d (ts : List Transaction) (s : State) : (s.take ts).d = s.d := rfl
@[simp] theorem State.take_rk (ts : List Transaction) (s : State) : (s.take ts).rk = s.rk := rfl
@[simp] theorem State.take_kv (ts : List Transaction) (s : State) : (s.take ts).kv = s.kv := rfl
@[simp] theorem State.take_rkv (ts : List Transaction) (s : State) : (s.take ts).rkv = s.rkv := rfl
@[simp] theorem State.take_err (ts : List Transaction) (s : State) : (s.take ts).err = s.err := rfl
@[simp] theorem State.take_klen (ts : List Transaction) (s : State) : (s.take ts).klen = s.klen := rfl
@[simp] theorem State.take_ilen (ts : List Transaction) (s : State) : (s.take ts).ilen = s.ilen := rfl
@[simp] theorem State.take_olen (ts : List Transaction) (s : State) : (s.take ts).olen = s.olen := rfl
@[simp] theorem State.take_kbuf (ts : List Transaction) (s : State) : (s.take ts).kbuf = s.kbuf := rfl
@[simp] theorem State.take_ibuf (ts : List Transaction) (s : State) : (s.take ts).ibuf = s.ibuf := rfl
@[simp] theorem State.take_obuf (ts : List Transaction) (s : State) : (s.take ts).obuf = s.obuf := rfl
@[simp] theorem State.take_bufBlocks (ts : List Transaction) (s : State) : (s.take ts).bufBlocks = s.bufBlocks := rfl
@[simp] theorem State.take_pending (ts : List Transaction) (s : State) : (s.take ts).pending = ts := rfl
@[simp] theorem State.take_reply (ts : List Transaction) (s : State) : (s.take ts).reply = .nothing := rfl

/-! ## Putting a command first in the list. -/

@[simp] theorem State.offerCommand_w (v : Block) (s : State) : (s.offerCommand v).w = s.w := rfl
@[simp] theorem State.offerCommand_l (v : Block) (s : State) : (s.offerCommand v).l = s.l := rfl
@[simp] theorem State.offerCommand_r (v : Block) (s : State) : (s.offerCommand v).r = s.r := rfl
@[simp] theorem State.offerCommand_key (v : Block) (s : State) : (s.offerCommand v).key = s.key := rfl
@[simp] theorem State.offerCommand_c (v : Block) (s : State) : (s.offerCommand v).c = s.c := rfl
@[simp] theorem State.offerCommand_d (v : Block) (s : State) : (s.offerCommand v).d = s.d := rfl
@[simp] theorem State.offerCommand_rk (v : Block) (s : State) : (s.offerCommand v).rk = s.rk := rfl
@[simp] theorem State.offerCommand_kv (v : Block) (s : State) : (s.offerCommand v).kv = s.kv := rfl
@[simp] theorem State.offerCommand_rkv (v : Block) (s : State) : (s.offerCommand v).rkv = s.rkv := rfl
@[simp] theorem State.offerCommand_err (v : Block) (s : State) : (s.offerCommand v).err = s.err := rfl
@[simp] theorem State.offerCommand_klen (v : Block) (s : State) : (s.offerCommand v).klen = s.klen := rfl
@[simp] theorem State.offerCommand_ilen (v : Block) (s : State) : (s.offerCommand v).ilen = s.ilen := rfl
@[simp] theorem State.offerCommand_olen (v : Block) (s : State) : (s.offerCommand v).olen = s.olen := rfl
@[simp] theorem State.offerCommand_kbuf (v : Block) (s : State) : (s.offerCommand v).kbuf = s.kbuf := rfl
@[simp] theorem State.offerCommand_ibuf (v : Block) (s : State) : (s.offerCommand v).ibuf = s.ibuf := rfl
@[simp] theorem State.offerCommand_obuf (v : Block) (s : State) : (s.offerCommand v).obuf = s.obuf := rfl
@[simp] theorem State.offerCommand_bufBlocks (v : Block) (s : State) : (s.offerCommand v).bufBlocks = s.bufBlocks := rfl
@[simp] theorem State.offerCommand_pending (v : Block) (s : State) : (s.offerCommand v).pending = .writeReg 0x20 v :: s.pending := rfl
@[simp] theorem State.offerCommand_reply (v : Block) (s : State) : (s.offerCommand v).reply = s.reply := rfl

end Sys2Proof.Machine
end

