-- ==== Sys2Proof/Laws/Ops.lean ====
section
/-! SUPPORT. For each shared operation, what it can do, said once. -/

namespace Sys2Proof.Machine

/-! ## Faults -/

/-- `ERRF` is 0 exactly when `ERR` is 0x00. -/
theorem errf_eq_false (s : State) : s.errf = false ↔ s.err = .clear := by
  cases h : s.err <;> simp [State.errf, Err.code, h]

theorem errf_eq_true (s : State) : s.errf = true ↔ s.err ≠ .clear := by
  cases h : s.err <;> simp [State.errf, Err.code, h]

theorem code_eq_four (e : Err) : e.code = 4 ↔ e = .configurationError := by
  cases e <;> simp [Err.code]

theorem raise_errf (e : Err) (s : State) (h : e ≠ .clear) : (s.raise e).errf = true := by
  simpa [errf_eq_true] using h

/-- `CLRERR`'s operation: nothing under `ConfigurationError`, otherwise `ERR` alone is cleared. -/
theorem clearError_cases (s : State) :
    (s.err = .configurationError ∧ s.clearError = s) ∨
    (s.err ≠ .configurationError ∧ s.clearError = { s with err := .clear }) := by
  by_cases h : s.err.code = 4
  · exact .inl ⟨(code_eq_four _).mp h, by rw [State.clearError, if_pos h]⟩
  · exact .inr ⟨fun hc => h ((code_eq_four _).mpr hc), by rw [State.clearError, if_neg h]⟩

/-! ## How a command starts -/

theorem unlessFaulted_clear {body : State → State} {s : State} (h : s.errf = false) :
    unlessFaulted body s = .next (body s) := by simp [unlessFaulted, h]

theorem unlessFaulted_faulted {body : State → State} {s : State} (h : s.errf = true) :
    unlessFaulted body s = .next s := by simp [unlessFaulted, h]

/-- What `unlessFaulted` can answer: the state unchanged while a fault is recorded, else the body's state. -/
theorem unlessFaulted_cases {body : State → State} {s t : State} (h : unlessFaulted body s = .next t) :
    (s.errf = true ∧ t = s) ∨ (s.errf = false ∧ t = body s) := by
  cases hs : s.errf with
  | true => rw [unlessFaulted_faulted hs] at h; exact .inl ⟨rfl, by cases h; rfl⟩
  | false => rw [unlessFaulted_clear hs] at h; exact .inr ⟨rfl, by cases h; rfl⟩

theorem withSchedule_valid {body : State → State} {s : State} (h : s.rkv = true) :
    withSchedule body s = body s := by simp [withSchedule, h]

theorem withSchedule_invalid {body : State → State} {s : State} (h : s.rkv = false) :
    withSchedule body s = s.raise .scheduleNotLoaded := by simp [withSchedule, h]

/-- What the schedule test can answer. -/
theorem withSchedule_cases (body : State → State) (s : State) :
    (s.rkv = true ∧ withSchedule body s = body s) ∨
    (s.rkv = false ∧ withSchedule body s = s.raise .scheduleNotLoaded) := by
  cases h : s.rkv with
  | true => exact .inl ⟨rfl, withSchedule_valid h⟩
  | false => exact .inr ⟨rfl, withSchedule_invalid h⟩

/-- The tables of this hardware pass the check of R106. -/
theorem tablesValid_theTables : tablesValid theTables = true := by decide

@[simp] theorem resetErr_theTables : resetErr theTables = .clear := by
  rw [resetErr, tablesValid_theTables, if_pos rfl]

/-- The transaction `Reset` leaves in every field of the spec what `State.reset` has there, except that the buffers' free
values are new ones. -/
theorem resetCore_eq (s : State) : s.resetCore theTables =
    { State.reset with
      kbuf := bufferVoid s.kbuf, ibuf := bufferVoid s.ibuf, obuf := bufferVoid s.obuf
      bufBlocks := s.bufBlocks, pending := s.pending, reply := s.reply } := rfl

/-! ## Output -/

/-- The output of a stream command, read back: the bytes put out below `OLEN`. -/
theorem bufferRead_output (bs : List Byte) (s : State) (j : Nat) (h : j < bs.length) :
    bufferRead .obuf (s.output bs).obuf j = bs.getD j 0 := by
  rw [State.output_obuf, bufferRead_bufferWriteBytes, if_pos (by omega), Nat.sub_zero]

/-- Beyond the bytes put out no address of `OBUF` holds a value. -/
theorem memoryRead_output (bs : List Byte) (s : State) (j : Nat) :
    memoryRead (s.output bs).obuf.cells j = bs[j]? := by
  rw [State.output_obuf, bufferWriteBytes_cells, memoryRead_memoryWriteBytes]
  by_cases h : j < bs.length
  · rw [if_pos (by omega), Nat.sub_zero]
  · rw [if_neg (by omega), List.getElem?_eq_none (by omega)]; rfl

/-! ## Host transactions -/

/-- What a host write can answer. -/
theorem hostWrite_cases (space : Space) (a n : Nat) (bs : List Byte) (s : State) :
    (bs.length ≠ n ∧ hostWrite space a n bs s = .refused .byteCountMismatch) ∨
    (bs.length = n ∧ s.capacity space < a + n ∧ hostWrite space a n bs s = .refused (.outsideBuffer space)) ∨
    (bs.length = n ∧ a + n ≤ s.capacity space ∧
      ((space = .kbuf ∧ hostWrite space a n bs s = .next { s with kbuf := bufferWriteBytes s.kbuf a bs }) ∨
       (space = .ibuf ∧ hostWrite space a n bs s = .next { s with ibuf := bufferWriteBytes s.ibuf a bs }) ∨
       (space = .obuf ∧ hostWrite space a n bs s = .refused .bufferNotWritable))) := by
  by_cases h1 : bs.length = n
  · by_cases h2 : s.capacity space < a + n
    · exact .inr (.inl ⟨h1, h2, by simp [hostWrite, h1, h2]⟩)
    · refine .inr (.inr ⟨h1, Nat.le_of_not_lt h2, ?_⟩)
      cases space <;> simp [hostWrite, h1, h2]
  · exact .inl ⟨h1, by simp [hostWrite, h1]⟩

/-- What a host read can answer. -/
theorem hostRead_cases (space : Space) (a n : Nat) (s : State) :
    (s.capacity space < a + n ∧ hostRead space a n s = .refused (.outsideBuffer space)) ∨
    (a + n ≤ s.capacity space ∧ hostRead space a n s =
      .next { s with reply := .bytes (bufferReadBytes space (s.buffer space) a n) }) := by
  by_cases h : s.capacity space < a + n
  · exact .inl ⟨h, by simp [hostRead, h]⟩
  · exact .inr ⟨Nat.le_of_not_lt h, by simp [hostRead, h]⟩

/-- What a write to `CMD` is: the execution of the decoded command, or an illegal word. -/
theorem writeCommand_cases (v : Block) (s : State) :
    (∃ i, decode v = .ok i ∧ writeCommand v s = exec i s) ∨
    (∃ e, decode v = .error e ∧ writeCommand v s = illegalWord s) := by
  cases h : decode v with
  | error e => exact .inr ⟨e, rfl, by simp [writeCommand, h]⟩
  | ok i => exact .inl ⟨i, rfl, by simp [writeCommand, h]⟩

end Sys2Proof.Machine
end

