-- ==== Sys2Proof/Laws/Exec.lean ====
section
/-! SUPPORT. What executing a command can answer, said once for all commands. -/

namespace Sys2Proof.Machine

/-- Every command but `CLRERR` is a body that runs only while no fault is recorded. -/
theorem exec_gated (i : Instr) (h : i ≠ .clrerr) : ∃ body, ∀ s, exec i s = unlessFaulted body s := by
  cases i <;> first | exact absurd rfl h | exact ⟨_, fun _ => rfl⟩

theorem exec_clrerr (s : State) : exec .clrerr s = .next s.clearError := rfl

/-- With no fault recorded a command takes a fault, or ends with none recorded. -/
theorem exec_unfaulted (i : Instr) (s t : State) (hs : s.errf = false) (h : exec i s = .next t) :
    (∃ e, e ≠ .clear ∧ t = s.raise e) ∨ t.err = .clear := by
  have hc : s.err = .clear := (errf_eq_false s).mp hs
  cases i
  case clrerr =>
    simp only [exec, execClrerr] at h
    rcases clearError_cases s with ⟨h1, _⟩ | ⟨_, h2⟩
    · simp [hc] at h1
    · rw [h2] at h; cases h; exact .inr rfl
  case tblchk =>
    simp only [exec, execTblchk] at h
    rcases unlessFaulted_cases h with ⟨h1, _⟩ | ⟨_, rfl⟩
    · simp [hs] at h1
    · exact .inr hc
  case ldkeyHex =>
    simp only [exec, execLdkeyHex] at h
    rcases unlessFaulted_cases h with ⟨h1, _⟩ | ⟨_, rfl⟩
    · simp [hs] at h1
    · split
      · exact .inl ⟨_, by simp, rfl⟩
      · split
        · exact .inl ⟨_, by simp, rfl⟩
        · exact .inr hc
  case ldkeyRaw =>
    simp only [exec, execLdkeyRaw] at h
    rcases unlessFaulted_cases h with ⟨h1, _⟩ | ⟨_, rfl⟩
    · simp [hs] at h1
    · split
      · exact .inl ⟨_, by simp, rfl⟩
      · exact .inr hc
  case ksched =>
    simp only [exec, execKsched] at h
    rcases unlessFaulted_cases h with ⟨h1, _⟩ | ⟨_, rfl⟩
    · simp [hs] at h1
    · split
      · exact .inr hc
      · exact .inl ⟨_, by simp, rfl⟩
  case unpad =>
    simp only [exec, execUnpad] at h
    rcases unlessFaulted_cases h with ⟨h1, _⟩ | ⟨_, rfl⟩
    · simp [hs] at h1
    · simp only [State.outputUnpadded, unpad8]
      split
      · rename_i e he
        refine .inl ⟨e, ?_, rfl⟩
        split at he
        · cases he; simp
        · split at he
          · cases he; simp
          · split at he
            · cases he; simp
            · cases he
      · exact .inr hc
  case decbytes =>
    simp only [exec, execDecbytes] at h
    rcases unlessFaulted_cases h with ⟨h1, _⟩ | ⟨_, rfl⟩
    · simp [hs] at h1
    · rw [withSchedule]
      split
      · split
        · exact .inl ⟨_, by simp, rfl⟩
        · split
          · exact .inl ⟨_, by simp, rfl⟩
          · simp only [State.outputUnpadded, unpad8]
            split
            · rename_i e he
              refine .inl ⟨e, ?_, rfl⟩
              split at he
              · cases he; simp
              · split at he
                · cases he; simp
                · split at he
                  · cases he; simp
                  · cases he
            · exact .inr hc
      · exact .inl ⟨_, by simp, rfl⟩
  case round k =>
    simp only [exec, execRound] at h
    rcases unlessFaulted_cases h with ⟨h1, _⟩ | ⟨_, rfl⟩
    · simp [hs] at h1
    · rcases withSchedule_cases (fun s => { s with l := s.l ^^^ roundF s.r s.rk[k] }) s with ⟨_, h⟩ | ⟨_, h⟩
      · rw [h]; exact .inr hc
      · rw [h]; exact .inl ⟨_, by simp, rfl⟩
  case encblk =>
    simp only [exec, execEncblk] at h
    rcases unlessFaulted_cases h with ⟨h1, _⟩ | ⟨_, rfl⟩
    · simp [hs] at h1
    · rcases withSchedule_cases (fun s => s.setBlock (feistel16 s.w (forwardKeys s.rk))) s with ⟨_, h⟩ | ⟨_, h⟩
      · rw [h]; exact .inr (by simp [hc])
      · rw [h]; exact .inl ⟨_, by simp, rfl⟩
  case decblk =>
    simp only [exec, execDecblk] at h
    rcases unlessFaulted_cases h with ⟨h1, _⟩ | ⟨_, rfl⟩
    · simp [hs] at h1
    · rcases withSchedule_cases (fun s => s.setBlock (feistel16 s.w (backwardKeys s.rk))) s with ⟨_, h⟩ | ⟨_, h⟩
      · rw [h]; exact .inr (by simp [hc])
      · rw [h]; exact .inl ⟨_, by simp, rfl⟩
  case encbytes =>
    simp only [exec, execEncbytes] at h
    rcases unlessFaulted_cases h with ⟨h1, _⟩ | ⟨_, rfl⟩
    · simp [hs] at h1
    · rcases withSchedule_cases (fun s => s.output (encryptStream s.rk s.input)) s with ⟨_, h⟩ | ⟨_, h⟩
      · rw [h]; exact .inr (by simp [hc])
      · rw [h]; exact .inl ⟨_, by simp, rfl⟩
  all_goals
    simp only [exec, execPermIp, execPermFp, execPermE, execPermP, execPermPc1, execPermPc2, execSubst, execSplit, execSwap, execJoin, execPad, permuteW] at h
    rcases unlessFaulted_cases h with ⟨h1, _⟩ | ⟨_, rfl⟩
    · simp [hs] at h1
    · exact .inr (by simp [hc])

/-- What a command can answer in any state. -/
theorem exec_cases {i : Instr} {s t : State} (h : exec i s = .next t) :
    (i = .clrerr ∧ t = s.clearError) ∨ (s.errf = true ∧ t = s) ∨
    (s.errf = false ∧ ((∃ e, e ≠ .clear ∧ t = s.raise e) ∨ t.err = .clear)) := by
  cases hs : s.errf with
  | false => exact .inr (.inr ⟨rfl, exec_unfaulted i s t hs h⟩)
  | true =>
    by_cases hi : i = .clrerr
    · subst hi; cases h; exact .inl ⟨rfl, rfl⟩
    · obtain ⟨body, hb⟩ := exec_gated i hi
      rw [hb, unlessFaulted_faulted hs] at h
      cases h; exact .inr (.inl ⟨rfl, rfl⟩)

end Sys2Proof.Machine
end

