-- ==== Sys2Proof/Laws/PerInstr.lean ====
section
/-! SUPPORT. What holds of every instruction as syntax, one lemma per constructor. -/

namespace Sys2Proof

/-- The instruction is well formed, and the two fields of its word, `OP` in bits 7:4 and `SEL` in bits 3:0, are those of
its row (`30_encoding.md` R70, R72). -/
def Laws.WordFields.Statement (i : Instr) : Prop :=
  i.wellFormed = true ∧ (encode i).extractLsb' 4 4 = i.op ∧ (encode i).extractLsb' 0 4 = i.sel

theorem Laws.WordFields.clrerr : Laws.WordFields.Statement .clrerr := by unfold Laws.WordFields.Statement; decide
theorem Laws.WordFields.tblchk : Laws.WordFields.Statement .tblchk := by unfold Laws.WordFields.Statement; decide
theorem Laws.WordFields.permIp : Laws.WordFields.Statement .permIp := by unfold Laws.WordFields.Statement; decide
theorem Laws.WordFields.permFp : Laws.WordFields.Statement .permFp := by unfold Laws.WordFields.Statement; decide
theorem Laws.WordFields.permE : Laws.WordFields.Statement .permE := by unfold Laws.WordFields.Statement; decide
theorem Laws.WordFields.permP : Laws.WordFields.Statement .permP := by unfold Laws.WordFields.Statement; decide
theorem Laws.WordFields.permPc1 : Laws.WordFields.Statement .permPc1 := by unfold Laws.WordFields.Statement; decide
theorem Laws.WordFields.permPc2 : Laws.WordFields.Statement .permPc2 := by unfold Laws.WordFields.Statement; decide
theorem Laws.WordFields.subst : Laws.WordFields.Statement .subst := by unfold Laws.WordFields.Statement; decide
theorem Laws.WordFields.ldkeyHex : Laws.WordFields.Statement .ldkeyHex := by unfold Laws.WordFields.Statement; decide
theorem Laws.WordFields.ldkeyRaw : Laws.WordFields.Statement .ldkeyRaw := by unfold Laws.WordFields.Statement; decide
theorem Laws.WordFields.ksched : Laws.WordFields.Statement .ksched := by unfold Laws.WordFields.Statement; decide
theorem Laws.WordFields.round (k : Fin 16) : Laws.WordFields.Statement (.round k) := by
  unfold Laws.WordFields.Statement; revert k; decide
theorem Laws.WordFields.split : Laws.WordFields.Statement .split := by unfold Laws.WordFields.Statement; decide
theorem Laws.WordFields.swap : Laws.WordFields.Statement .swap := by unfold Laws.WordFields.Statement; decide
theorem Laws.WordFields.join : Laws.WordFields.Statement .join := by unfold Laws.WordFields.Statement; decide
theorem Laws.WordFields.encblk : Laws.WordFields.Statement .encblk := by unfold Laws.WordFields.Statement; decide
theorem Laws.WordFields.decblk : Laws.WordFields.Statement .decblk := by unfold Laws.WordFields.Statement; decide
theorem Laws.WordFields.pad : Laws.WordFields.Statement .pad := by unfold Laws.WordFields.Statement; decide
theorem Laws.WordFields.unpad : Laws.WordFields.Statement .unpad := by unfold Laws.WordFields.Statement; decide
theorem Laws.WordFields.encbytes : Laws.WordFields.Statement .encbytes := by unfold Laws.WordFields.Statement; decide
theorem Laws.WordFields.decbytes : Laws.WordFields.Statement .decbytes := by unfold Laws.WordFields.Statement; decide

end Sys2Proof
end

