-- ==== Sys2Proof/Laws/Sequences.lean ====
section
/-! SUPPORT. What a sequence of host transactions, and the reading of its output, can do. -/

namespace Sys2Proof.Machine

theorem hostRun_cons {t : Transaction} {ts : List Transaction} {s u : State} (h : perform t s = .next u) :
    hostRun (t :: ts) s = hostRun ts u := by rw [hostRun, h]

theorem hostRun_append {ts us : List Transaction} {s t : State} (h : hostRun ts s = .next t) :
    hostRun (ts ++ us) s = hostRun us t := by
  induction ts generalizing s with
  | nil => cases h; rfl
  | cons x xs ih =>
    rw [List.cons_append, hostRun]
    rw [hostRun] at h
    split at h <;> simp_all

theorem runThen_next {ts : List Transaction} {after : State → Outcome} {s t : State} (h : hostRun ts s = .next t) :
    runThen ts after s = after t := by rw [runThen, h]

/-- Reading a register and using its value. -/
theorem readThen_eq (n : BitVec 8) (use : Block → State → Outcome) (s : State) :
    readThen n use s =
      use (s.readReg (regOfNumber n)) { s with reply := .value (s.readReg (regOfNumber n)) } := rfl

/-- The reading of the output: exactly `OBUF[0..OLEN)` whenever `OLEN` fits the buffer. -/
theorem readOutput_eq (s : State) (h : s.olen.toNat ≤ s.bufMax + 8) :
    readOutput s = .next { s with reply := .bytes (bufferReadBytes .obuf s.obuf 0 s.olen.toNat) } := by
  have hn : (s.readReg (regOfNumber 0x25)).toNat = s.olen.toNat := by
    show (zext64 s.olen).toNat = _
    simp only [zext64, BitVec.toNat_setWidth]
    omega
  rw [readOutput, readThen_eq, hn]
  rcases hostRead_cases .obuf 0 s.olen.toNat { s with reply := .value (s.readReg (regOfNumber 0x25)) } with h' | h'
  · exact absurd (Nat.lt_of_lt_of_eq h'.1 (Nat.zero_add _)) (Nat.not_lt.mpr h)
  · exact h'.2

/-- `ERR` reads as zero exactly when no fault is recorded. -/
theorem err_byte_eq_zero (e : Err) : zext64 e.byte = 0 ↔ e = .clear := by cases e <;> decide

/-- With no fault recorded the result is the output. -/
theorem readResult_clear (s : State) (h : s.errf = false) :
    readResult s = readOutput { s with reply := .value 0 } := by
  have he : s.readReg (regOfNumber 0x22) = 0 := (err_byte_eq_zero s.err).mpr ((errf_eq_false s).mp h)
  rw [readResult, readThen_eq, he, if_pos rfl]

/-- With a fault recorded the result is the value of `ERR`, and `OBUF` is not read. -/
theorem readResult_fault (s : State) (h : s.errf = true) :
    readResult s = .next { s with reply := .value (zext64 s.err.byte) } := by
  have he : ¬ s.readReg (regOfNumber 0x22) = 0 := fun he =>
    (errf_eq_true s).mp h ((err_byte_eq_zero s.err).mp he)
  rw [readResult, readThen_eq, if_neg he]
  rfl

end Sys2Proof.Machine
end

