-- ==== Sys2Proof/Tests/Slice0.lean ====
section
/-! SUPPORT. The model's own tests. Every expected value is copied from the spec (`30_encoding.md` R72, R74;
`95_test_vectors.md`, the section named beside the test), none from the model. The last part shows, for each obligation
with hypotheses, a state and operands that meet them. -/

namespace Sys2Proof.Tests

open Machine

set_option maxRecDepth 8000
set_option Elab.async false

/-! ## Helpers -/

/-- The state is a next state and meets the test. -/
def next (p : State → Bool) : Outcome → Bool
  | .next s => p s
  | .fault _ => false
  | .refused _ => false

/-- The step is refused. -/
def refused : Outcome → Bool
  | .refused _ => true
  | .next _ => false
  | .fault _ => false

/-- The state a command leaves, or the state before it when there is none. -/
def after (i : Instr) (s : State) : State :=
  match exec i s with
  | .next t => t
  | .fault _ => s
  | .refused _ => s

/-- One step on a word written to `CMD`. -/
def stepWord (w : Nat) (s : State) : Outcome := step (s.withFetchWord 8 w)

/-- A buffer holding bytes from address 0. -/
def holding (bs : List Byte) : Buffer := bufferWriteBytes Buffer.fresh 0 bs

/-- The state after `Reset` with a work register. -/
def work (w : Block) : State := { State.reset with w := w }

/-- The state after `Reset` with halves. -/
def halves (l r : Half) : State := { State.reset with l := l, r := r }

/-- The state after `Reset` with key bytes. -/
def keyText (bs : List Byte) : State :=
  { State.reset with klen := BitVec.ofNat 32 bs.length, kbuf := holding bs }

/-- `K1` of `95_test_vectors.md`. -/
def k1 : Block := 0x133457799BBCDFF1

/-- The round keys of `K1`, copied from the table of section 3.3. -/
def k1Keys : Vector RoundKey 16 :=
  #v[0x1B02EFFC7072, 0x79AED9DBC9E5, 0x55FC8A42CF99, 0x72ADD6DB351D, 0x7CEC07EB53A8, 0x63A53E507B2F,
    0xEC84B7F618BC, 0xF78A3AC13BFB, 0xE0DBEBEDE781, 0xB1F347BA464F, 0x215FD3DED386, 0x7571F59467E9,
    0x97C5D1FABA41, 0x5F43B7F2E73A, 0xBF918D3D3F0A, 0xCB3D8B0E17F5]

/-- The state after `KSCHED` under `K1` (section 3.3), from the spec's own values. -/
def scheduled : State :=
  { State.reset with key := k1, kv := true, rkv := true, rk := k1Keys, c := 0xF0CCAAF, d := 0x556678F }

/-- That state with an input stream. -/
def streamIn (bs : List Byte) : State :=
  { scheduled with ilen := BitVec.ofNat 32 bs.length, ibuf := holding bs }

/-- The bytes of `OBUF` that hold a value. -/
def outBytes (s : State) : List Byte := s.obuf.cells.map Prod.snd

/-- A state in which `InvalidKey(LENGTH)` is recorded. -/
def faulted : State := State.reset.raise .invalidKeyLength

/-- A state in which `ConfigurationError` is recorded. -/
def misconfigured : State := State.reset.raise .configurationError

/-- The key text "zzzzzzzzzzzzzzzz" (section 3.7). -/
def lettersZ : State := keyText (List.replicate 16 0x7A)

/-- The key text "0000000000000000" (section 3.3). -/
def digitsZero : State := keyText (List.replicate 16 0x30)

/-- A set of tables that fails the check. -/
def brokenTables : Tables := { theTables with ip := [] }

/-! ## Decoding: every word of R72 written out bit by bit -/

theorem test_decode_clrerr :
    decode 0b00000001 = .ok (.clrerr) ∧ encode (.clrerr) = 0b00000001 := by decide

theorem test_decode_tblchk :
    decode 0b00000010 = .ok (.tblchk) ∧ encode (.tblchk) = 0b00000010 := by decide

theorem test_decode_permIp :
    decode 0b00010000 = .ok (.permIp) ∧ encode (.permIp) = 0b00010000 := by decide

theorem test_decode_permFp :
    decode 0b00010001 = .ok (.permFp) ∧ encode (.permFp) = 0b00010001 := by decide

theorem test_decode_permE :
    decode 0b00010010 = .ok (.permE) ∧ encode (.permE) = 0b00010010 := by decide

theorem test_decode_permP :
    decode 0b00010011 = .ok (.permP) ∧ encode (.permP) = 0b00010011 := by decide

theorem test_decode_permPc1 :
    decode 0b00010100 = .ok (.permPc1) ∧ encode (.permPc1) = 0b00010100 := by decide

theorem test_decode_permPc2 :
    decode 0b00010101 = .ok (.permPc2) ∧ encode (.permPc2) = 0b00010101 := by decide

theorem test_decode_subst :
    decode 0b00100000 = .ok (.subst) ∧ encode (.subst) = 0b00100000 := by decide

theorem test_decode_ldkeyHex :
    decode 0b00110000 = .ok (.ldkeyHex) ∧ encode (.ldkeyHex) = 0b00110000 := by decide

theorem test_decode_ldkeyRaw :
    decode 0b00110001 = .ok (.ldkeyRaw) ∧ encode (.ldkeyRaw) = 0b00110001 := by decide

theorem test_decode_ksched :
    decode 0b00110010 = .ok (.ksched) ∧ encode (.ksched) = 0b00110010 := by decide

theorem test_decode_round_0 :
    decode 0b01000000 = .ok (.round 0) ∧ encode (.round 0) = 0b01000000 := by decide

theorem test_decode_round_9 :
    decode 0b01001001 = .ok (.round 9) ∧ encode (.round 9) = 0b01001001 := by decide

theorem test_decode_round_15 :
    decode 0b01001111 = .ok (.round 15) ∧ encode (.round 15) = 0b01001111 := by decide

theorem test_decode_split :
    decode 0b01010000 = .ok (.split) ∧ encode (.split) = 0b01010000 := by decide

theorem test_decode_swap :
    decode 0b01010001 = .ok (.swap) ∧ encode (.swap) = 0b01010001 := by decide

theorem test_decode_join :
    decode 0b01010010 = .ok (.join) ∧ encode (.join) = 0b01010010 := by decide

theorem test_decode_encblk :
    decode 0b01100000 = .ok (.encblk) ∧ encode (.encblk) = 0b01100000 := by decide

theorem test_decode_decblk :
    decode 0b01100001 = .ok (.decblk) ∧ encode (.decblk) = 0b01100001 := by decide

theorem test_decode_pad :
    decode 0b01110000 = .ok (.pad) ∧ encode (.pad) = 0b01110000 := by decide

theorem test_decode_unpad :
    decode 0b01110001 = .ok (.unpad) ∧ encode (.unpad) = 0b01110001 := by decide

theorem test_decode_encbytes :
    decode 0b10000000 = .ok (.encbytes) ∧ encode (.encbytes) = 0b10000000 := by decide

theorem test_decode_decbytes :
    decode 0b10000001 = .ok (.decbytes) ∧ encode (.decbytes) = 0b10000001 := by decide

theorem test_decode_table_word :
    decodeTableWord 8 0x61 = some .decblk ∧ decodeTableWord 8 0x62 = none ∧ decodeTableWord 8 0x4A = some (.round 10) := by decide

theorem test_fetch_word :
    (State.reset.withFetchWord 8 0x4A).pending = [.writeReg 0x20 0x4A] := by decide

/-! ## WellFormed: each range of R74 refused, its neighbours accepted; each refused by the decoder by name -/

theorem test_ill_formed_00 :
    CommandWord.wellFormed 0x00 = false ∧
    CommandWord.wellFormed 0x01 = true ∧
    CommandWord.wellFormed 0x02 = true ∧
    decode 0x00 = .error .reservedWord := by decide

theorem test_ill_formed_03 :
    CommandWord.wellFormed 0x03 = false ∧
    CommandWord.wellFormed 0x0F = false ∧
    CommandWord.wellFormed 0x10 = true ∧
    decode 0x03 = .error .reservedWord ∧
    decode 0x0F = .error .reservedWord := by decide

theorem test_ill_formed_16 :
    CommandWord.wellFormed 0x16 = false ∧
    CommandWord.wellFormed 0x1F = false ∧
    CommandWord.wellFormed 0x15 = true ∧
    CommandWord.wellFormed 0x20 = true ∧
    decode 0x16 = .error .reservedWord ∧
    decode 0x1F = .error .reservedWord := by decide

theorem test_ill_formed_21 :
    CommandWord.wellFormed 0x21 = false ∧
    CommandWord.wellFormed 0x2F = false ∧
    CommandWord.wellFormed 0x20 = true ∧
    CommandWord.wellFormed 0x30 = true ∧
    decode 0x21 = .error .reservedWord ∧
    decode 0x2F = .error .reservedWord := by decide

theorem test_ill_formed_33 :
    CommandWord.wellFormed 0x33 = false ∧
    CommandWord.wellFormed 0x3F = false ∧
    CommandWord.wellFormed 0x32 = true ∧
    CommandWord.wellFormed 0x40 = true ∧
    decode 0x33 = .error .reservedWord ∧
    decode 0x3F = .error .reservedWord := by decide

theorem test_ill_formed_53 :
    CommandWord.wellFormed 0x53 = false ∧
    CommandWord.wellFormed 0x5F = false ∧
    CommandWord.wellFormed 0x52 = true ∧
    CommandWord.wellFormed 0x60 = true ∧
    decode 0x53 = .error .reservedWord ∧
    decode 0x5F = .error .reservedWord := by decide

theorem test_ill_formed_62 :
    CommandWord.wellFormed 0x62 = false ∧
    CommandWord.wellFormed 0x6F = false ∧
    CommandWord.wellFormed 0x61 = true ∧
    CommandWord.wellFormed 0x70 = true ∧
    decode 0x62 = .error .reservedWord ∧
    decode 0x6F = .error .reservedWord := by decide

theorem test_ill_formed_72 :
    CommandWord.wellFormed 0x72 = false ∧
    CommandWord.wellFormed 0x7F = false ∧
    CommandWord.wellFormed 0x71 = true ∧
    CommandWord.wellFormed 0x80 = true ∧
    decode 0x72 = .error .reservedWord ∧
    decode 0x7F = .error .reservedWord := by decide

theorem test_ill_formed_82 :
    CommandWord.wellFormed 0x82 = false ∧
    CommandWord.wellFormed 0xFF = false ∧
    CommandWord.wellFormed 0x81 = true ∧
    decode 0x82 = .error .reservedWord ∧
    decode 0xFF = .error .reservedWord := by decide

/-- Section 3.7: bit 8 or bit 63 set. -/
theorem test_ill_formed_high_bits :
    CommandWord.wellFormed 0x0000000000000110 = false ∧ decode 0x0000000000000110 = .error .upperBitsSet ∧
    decode 0x8000000000000060 = .error .upperBitsSet ∧ decode 0x0000000000000101 = .error .upperBitsSet := by decide

theorem test_illegal_word_ignored :
    next (fun s => s = faulted) (stepWord 0x16 faulted) = true := by decide +kernel

theorem test_illegal_word_faults :
    next (fun s => s.err = .illegalCommand && s.olen = 0) (stepWord 0x16 State.reset) = true := by decide

/-! ## Control (sections 3.1, 3.7) -/

theorem test_clrerr :
    next (fun s => s = { faulted with err := .clear }) (exec .clrerr faulted) = true := by decide

theorem test_clrerr_keeps_configuration_error :
    next (fun s => s = misconfigured) (exec .clrerr misconfigured) = true := by decide

theorem test_tblchk :
    next (fun s => s = work 5) (exec .tblchk (work 5)) = true := by decide +kernel

theorem test_tblchk_ignored :
    next (fun s => s = faulted) (exec .tblchk faulted) = true := by decide +kernel

/-! ## Permutations and substitution (sections 3.1, 3.2) -/

theorem test_permIp :
    next (fun s => s.w = 0xCC00CCFFF0AAF0AA) (stepWord 0x10 (work 0x0123456789ABCDEF)) = true := by decide +kernel

theorem test_permIp_first_position :
    next (fun s => s.w = 0x0000000001000000) (stepWord 0x10 (work 0x8000000000000000)) = true := by decide +kernel

theorem test_permFp :
    next (fun s => s.w = 0xFF330FAA00330FAA) (stepWord 0x11 (work 0x0123456789ABCDEF)) = true := by decide +kernel

theorem test_permFp_last_position :
    next (fun s => s.w = 0x0200000000000000) (stepWord 0x11 (work 0x0000000000000001)) = true := by decide +kernel

theorem test_permE :
    next (fun s => s.w = 0x00007A15557A1555) (stepWord 0x12 (work 0xDEADBEEFF0AAF0AA)) = true := by decide +kernel

theorem test_permE_first_position :
    next (fun s => s.w = 0x0000400000000001) (stepWord 0x12 (work 0x0000000080000000)) = true := by decide +kernel

theorem test_permP :
    next (fun s => s.w = 0x00000000234AA9BB) (stepWord 0x13 (work 0xFFFFFFFF5C82B597)) = true := by decide +kernel

theorem test_permP_last_position :
    next (fun s => s.w = 0x0000000000000800) (stepWord 0x13 (work 0x0000000000000001)) = true := by decide +kernel

theorem test_permPc1 :
    next (fun s => s.w = 0x00F0CCAAF556678F) (stepWord 0x14 (work 0x133457799BBCDFF1)) = true := by decide +kernel

theorem test_permPc1_parity :
    next (fun s => s.w = 0) (stepWord 0x14 (work 0x0101010101010101)) = true := by decide +kernel

theorem test_permPc2 :
    next (fun s => s.w = 0x00001B02EFFC7072) (stepWord 0x15 (work 0xFFE19955FAACCF1E)) = true := by decide +kernel

theorem test_permPc2_dropped :
    next (fun s => s.w = 0) (stepWord 0x15 (work 0x0000804480242004)) = true := by decide +kernel

theorem test_subst :
    next (fun s => s.w = 0x000000005C82B597) (stepWord 0x20 (work 0xFFFF6117BA866527)) = true := by decide +kernel

theorem test_subst_row_and_column :
    next (fun s => s.w = 0x000000004FA72C4D) (stepWord 0x20 (work 0x0000800000000000)) = true := by decide +kernel

/-! ## Keys (section 3.3) -/

theorem test_ldkeyHex :
    next (fun s => s.key = k1 && s.kv && !s.rkv)
    (stepWord 0x30 (keyText [0x31, 0x33, 0x33, 0x34, 0x35, 0x37, 0x37, 0x39, 0x39, 0x62, 0x62, 0x63, 0x64, 0x66, 0x66, 0x31])) = true := by decide +kernel

theorem test_ldkeyHex_format :
    next (fun s => s.err = .invalidKeyFormat && s.key = 0 && !s.kv)
    (stepWord 0x30 (keyText [0x31, 0x33, 0x33, 0x34, 0x35, 0x37, 0x37, 0x39, 0x39, 0x42, 0x42, 0x43, 0x44, 0x46, 0x46, 0x67])) = true := by decide +kernel

theorem test_ldkeyRaw :
    next (fun s => s.key = 0x0123456789ABCDEF && s.kv)
    (stepWord 0x31 (keyText [0x01, 0x23, 0x45, 0x67, 0x89, 0xAB, 0xCD, 0xEF])) = true := by decide +kernel

theorem test_ldkeyRaw_length :
    next (fun s => s.err = .invalidKeyLength && s.key = 0)
    (stepWord 0x31 (keyText [0x13, 0x34, 0x57, 0x79, 0x9B, 0xBC, 0xDF])) = true := by decide +kernel

theorem test_ksched :
    next (fun s => s = scheduled) (exec .ksched { State.reset with key := k1, kv := true }) = true := by decide +kernel

theorem test_ksched_parity_flipped :
    next (fun s => s.rk = k1Keys)
    (exec .ksched { State.reset with key := 0x123556789ABDDEF0, kv := true }) = true := by decide +kernel

/-! ## Rounds and blocks (sections 2, 3.4) -/

theorem test_round :
    next (fun s => s = { scheduled with l := 0xEF4A6544, r := 0xF0AAF0AA })
    (exec (.round 0) { scheduled with l := 0xCC00CCFF, r := 0xF0AAF0AA }) = true := by decide +kernel

theorem test_round_seven :
    next (fun s => s.l = 0x235CEFA0 && s.r = 0) (stepWord 0x47 scheduled) = true := by decide +kernel

theorem test_split :
    next (fun s => s = { halves 0xCC00CCFF 0xF0AAF0AA with w := 0xCC00CCFFF0AAF0AA })
    (exec .split (work 0xCC00CCFFF0AAF0AA)) = true := by decide +kernel

theorem test_swap :
    next (fun s => s = halves 0xF0AAF0AA 0xEF4A6544) (exec .swap (halves 0xEF4A6544 0xF0AAF0AA)) = true := by decide +kernel

theorem test_join :
    next (fun s => s.w = 0x0A4CD99543423234 && s.l = 0x0A4CD995) (exec .join (halves 0x0A4CD995 0x43423234)) = true := by decide +kernel

theorem test_encblk :
    next (fun s => s = { scheduled with w := 0x85E813540F0AB405, l := 0x0A4CD995, r := 0x43423234 })
    (exec .encblk { scheduled with w := 0x0123456789ABCDEF }) = true := by decide +kernel

theorem test_encblk_without_schedule :
    next (fun s => s.err = .scheduleNotLoaded && s.w = 7) (stepWord 0x60 (work 7)) = true := by decide +kernel

theorem test_decblk :
    next (fun s => s = { scheduled with w := 0x0123456789ABCDEF, l := 0xCC00CCFF, r := 0xF0AAF0AA })
    (exec .decblk { scheduled with w := 0x85E813540F0AB405 }) = true := by decide +kernel

/-! ## Streams (sections 3.5, 3.6) -/

theorem test_pad :
    next (fun s => outBytes s = [0x41, 0x42, 0x06, 0x06, 0x06, 0x06, 0x06, 0x06] && s.olen = 8)
    (exec .pad (streamIn [0x41, 0x42])) = true := by decide +kernel

theorem test_pad_full_block :
    next (fun s => outBytes s = List.replicate 16 8 && s.olen = 16)
    (exec .pad (streamIn (List.replicate 8 8))) = true := by decide +kernel

theorem test_unpad :
    next (fun s => outBytes s = [0x11, 0x22, 0x33, 0x44, 0x55, 0x66] && s.olen = 6)
    (exec .unpad (streamIn [0x11, 0x22, 0x33, 0x44, 0x55, 0x66, 0x01, 0x02])) = true := by decide +kernel

theorem test_unpad_nine :
    next (fun s => s.err = .malformedPad && s.olen = 0 && outBytes s = [])
    (exec .unpad (streamIn [0x41, 0x42, 0x43, 0x44, 0x45, 0x46, 0x47, 0x09])) = true := by decide +kernel

theorem test_encbytes :
    next (fun s => outBytes s = [0x0E, 0xE1, 0x1B, 0xD2, 0x80, 0x8E, 0xF0, 0xA1, 0xFD, 0xF2, 0xE1, 0x74, 0x49, 0x29, 0x22, 0xF8] &&
      s.olen = 16 && s.w = 0)
    (exec .encbytes (streamIn [0x41, 0x42, 0x43, 0x44, 0x45, 0x46, 0x47, 0x48])) = true := by decide +kernel

theorem test_decbytes :
    next (fun s => outBytes s = [0x41, 0x42, 0x43, 0x44, 0x45, 0x46, 0x47, 0x48] && s.olen = 8 && s.err = .clear)
    (exec .decbytes (streamIn [0x0E, 0xE1, 0x1B, 0xD2, 0x80, 0x8E, 0xF0, 0xA1, 0xFD, 0xF2, 0xE1, 0x74, 0x49, 0x29, 0x22, 0xF8])) = true := by decide +kernel

theorem test_decbytes_bad_pad :
    next (fun s => s.err = .malformedPad && s.olen = 0 && outBytes s = [])
    (exec .decbytes (streamIn [0x94, 0x8A, 0x43, 0xF9, 0x8A, 0x83, 0x4F, 0x7E])) = true := by decide +kernel

/-! ## Transactions and unspecified bytes (section 3.7, R53, R180, R194) -/

theorem test_fault_ignores_commands :
    next (fun s => s = { faulted with pending := [] }) (stepWord 0x50 faulted) = true := by decide +kernel

theorem test_write_klen_out_of_range :
    next (fun s => s.klen = 0) (perform (.writeReg 0x23 33) State.reset) = true ∧
    next (fun s => s.klen = 32) (perform (.writeReg 0x23 32) State.reset) = true ∧
    next (fun s => s.klen = 0) (perform (.writeReg 0x23 0x100000010) State.reset) = true := by decide +kernel

theorem test_write_ilen_out_of_range :
    next (fun s => s.ilen = 0) (perform (.writeReg 0x24 65) State.reset) = true ∧
    next (fun s => s.ilen = 64) (perform (.writeReg 0x24 64) State.reset) = true := by decide +kernel

/-- Section 3.3: `ReadReg(0x10)` and `ReadReg(0x04)` after `KSCHED` under `K1`, and `STATUS`. -/
theorem test_read_registers :
    next (fun s => s.reply = .value 0x00001B02EFFC7072) (perform (.readReg 0x10) scheduled) = true ∧
    next (fun s => s.reply = .value 0x000000000F0CCAAF) (perform (.readReg 0x04) scheduled) = true ∧
    next (fun s => s.reply = .value 3) (perform (.readReg 0x21) scheduled) = true := by decide +kernel

theorem test_host_write_edges :
    next (fun s => s.kbuf.cells = [(31, 5)]) (perform (.memWrite .kbuf 31 1 [5]) State.reset) = true ∧
    refused (perform (.memWrite .kbuf 32 1 [5]) State.reset) = true ∧
    refused (perform (.memWrite .obuf 0 1 [5]) State.reset) = true ∧
    refused (perform (.memWrite .ibuf 0 2 [5]) State.reset) = true := by decide +kernel

theorem test_host_read_edges :
    next (fun s => s.reply = .bytes [8]) (perform (.memRead .obuf 7 1) (after .pad State.reset)) = true ∧
    refused (perform (.memRead .obuf 72 1) State.reset) = true ∧
    next (fun s => s.reply = .bytes []) (perform (.memRead .obuf 72 0) State.reset) = true := by decide +kernel

theorem test_unspecified_byte_reads_alike :
    bufferRead .ibuf State.reset.ibuf 3 = Config.unspecifiedByte .ibuf 0 3 := rfl

/-- Input bytes nothing has written: the command runs on free values. -/
theorem test_unspecified_input_runs :
    ∃ t, exec .unpad { State.reset with ilen := 8 } = .next t := ⟨_, rfl⟩

theorem test_no_transaction_pending :
    next (fun s => s = State.reset) (step State.reset) = true := by decide +kernel

/-- Section 3.6: `ENCRYPT` of the byte 41 under `K1`. -/
theorem test_encrypt_sequence :
    next (fun s => s.reply = .bytes [0x88, 0xBF, 0x49, 0xB7, 0x62, 0x95, 0xAD, 0x8B])
    (encryptBytes [0x31, 0x33, 0x33, 0x34, 0x35, 0x37, 0x37, 0x39, 0x39, 0x42, 0x42, 0x43, 0x44, 0x46, 0x46, 0x31] [0x41] State.reset) = true := by decide +kernel

/-- E7: the key text "not-hex". -/
theorem test_encrypt_sequence_bad_key :
    next (fun s => s.err = .invalidKeyLength && s.olen = 0 && s.reply = .value 0x11)
    (encryptBytes [0x6E, 0x6F, 0x74, 0x2D, 0x68, 0x65, 0x78] [0x41] State.reset) = true := by decide +kernel

/-- R76: `OLEN` reads 0 and nothing is put out. -/
theorem test_encrypt_pseudo_bad_key :
    next (fun s => s.err = .invalidKeyLength && s.reply = .bytes [])
    (encryptSequence [0x6E, 0x6F, 0x74, 0x2D, 0x68, 0x65, 0x78] [0x41] State.reset) = true := by decide +kernel

/-- R76: a key text above 32 bytes. -/
theorem test_encrypt_long_key :
    next (fun s => s.err = .invalidKeyLength && s.klen = 32 && s.reply = .value 0x11)
    (encryptBytes (List.replicate 33 0x30) [0x41] State.reset) = true := by decide +kernel

/-- R191: `EMPTY` reads 0x32. -/
theorem test_decrypt_empty :
    next (fun s => s.reply = .value 0x32) (decryptBytes (List.replicate 16 0x30) [] State.reset) = true := by decide +kernel

/-! ## Witnesses: for each obligation with hypotheses, a state and operands that meet all of them -/

theorem test_hyp_IllegalWordsFault :
    CommandWord.wellFormed 0x82 = false ∧ 256 ≤ (0x100 : Block).toNat ∧ CommandWord.wellFormed 0x100 = false ∧
    State.reset.errf = false ∧ faulted.errf = true := by decide +kernel

theorem test_hyp_StepRunsTheDecodedCommand :
    State.reset.pending = [] ∧ (State.reset.withFetchWord 8 0x60).pending = .writeReg 0x20 0x60 :: [] ∧
    decode 0x60 = .ok .encblk ∧ decode 0x16 = .error .reservedWord ∧ State.reset.errf = false ∧ faulted.errf = true ∧
    (State.reset.withFetchWord 8 0x16).pending = .writeReg 0x20 0x16 :: [] ∧
    (faulted.withFetchWord 8 0x16).pending = .writeReg 0x20 0x16 :: [] := by decide +kernel

theorem test_hyp_FaultEntryIsTheOnlyChange :
    State.reset.errf = false ∧ writeCommand 0x16 State.reset = .next (State.reset.raise .illegalCommand) ∧
    (State.reset.raise .illegalCommand).errf = true := ⟨by decide +kernel, rfl, by decide⟩

theorem test_hyp_RecordedFaultIgnoresEveryWord :
    faulted.errf = true ∧ (0x60 : Block) ≠ 1 ∧ Instr.clrerr ∉ [Instr.pad, .tblchk] ∧ (0x24 : BitVec 8) ≠ 0x20 ∧
    [(5 : Byte)].length = 1 ∧ 63 + 1 ≤ faulted.bufMax ∧ 71 + 1 ≤ faulted.capacity .obuf ∧ 31 + 1 ≤ faulted.capacity .kbuf ∧ 31 + 1 ≤ 32 := by decide +kernel

theorem test_hyp_EachCommandRaisesItsFaults :
    State.reset.errf = false ∧ exec .ksched State.reset = .next (after .ksched State.reset) ∧
    Err.keyNotLoaded ∈ raisable .ksched ∧ Err.keyNotLoaded ≠ .configurationError := ⟨by decide +kernel, rfl, by decide, by decide⟩

theorem test_hyp_FaultPriority :
    (faulted.errf = true ∧ (0 : Block) ≠ 1) ∧ (State.reset.errf = false ∧ CommandWord.wellFormed 0 = false ∧ State.reset.kv = false ∧
    needsSchedule .decbytes = true ∧ State.reset.rkv = false ∧ State.reset.klen ≠ 16 ∧ State.reset.ilen = 0) ∧
    (streamIn [1]).errf = false ∧ (streamIn [1]).rkv = true ∧ (streamIn [1]).ilen.toNat % 8 ≠ 0 := by decide +kernel

theorem test_hyp_FaultPriority_pad :
    ∃ t, (streamIn [0, 0, 0, 0, 0, 0, 0, 9]).errf = false ∧ (streamIn [0, 0, 0, 0, 0, 0, 0, 9]).ilen.toNat % 8 = 0 ∧
    (streamIn [0, 0, 0, 0, 0, 0, 0, 9]).ilen ≠ 0 ∧ exec .unpad (streamIn [0, 0, 0, 0, 0, 0, 0, 9]) = .next t := ⟨_, by decide +kernel, by decide +kernel, by decide +kernel, rfl⟩

theorem test_hyp_FaultPriority_format :
    (lettersZ).errf = false ∧
    (lettersZ).klen = 16 ∧
    ∃ b ∈ (lettersZ).kin,
      hexDigit b = none := by decide +kernel

theorem test_hyp_ClrerrClearsTheFault :
    faulted.err.code ≠ 4 ∧ misconfigured.err.code = 4 ∧ exec .clrerr faulted = .next (after .clrerr faulted) ∧
    faulted.errf = true ∧ Instr.pad ≠ .clrerr := ⟨by decide, by decide, rfl, by decide, by decide⟩

theorem test_hyp_FaultClearedAndReissued :
    faulted.errf = true ∧ perform (.writeReg 0x20 1) faulted = .next { faulted with err := .clear } ∧
    ({ faulted with err := .clear } : State).errf = false ∧ faulted.err.code ≠ 4 ∧ State.reset.errf = false ∧
    exec .unpad State.reset = .next (after .unpad State.reset) ∧ (after .unpad State.reset).errf = true ∧ misconfigured.err.code = 4 ∧
    exec .pad faulted = .next faulted := ⟨by decide, rfl, by decide, by decide, by decide +kernel, rfl, by decide +kernel, by decide, rfl⟩

theorem test_hyp_FpInvertsIp :
    1 ≤ 64 ∧ 64 ≤ 64 ∧ 1 ≤ 1 ∧ 1 ≤ 64 := by decide

theorem test_hyp_SboxRowsAndShiftsAreAsStated :
    15 < 16 ∧ (∃ b ∈ sboxes, ∃ row ∈ b, row.length = 16) := by decide +kernel

theorem test_hyp_HexDigitsAreAscii :
    9 < 10 ∧ 5 < 6 := by decide

theorem test_hyp_KeyHalvesRotateCumulatively :
    16 ≤ 16 ∧ 0 ≤ 16 := by decide

theorem test_hyp_TblchkChangesNothing :
    tablesValid theTables = true ∧ tablesValid brokenTables = false := by decide +kernel

theorem test_hyp_PermuteMovesPositions :
    tableE.length = 48 ∧ (∀ p ∈ tableE, 1 ≤ p ∧ p ≤ 32) ∧ 47 < 48 := by decide +kernel

theorem test_hyp_PermCommandsApplyTheirTables :
    (work 0x8000000000000001).errf = false := by decide +kernel

theorem test_hyp_PermCommandsMoveBits :
    (work 3).errf = false ∧ faulted.errf = true ∧ 55 < tablePc1.length ∧ tablePc1.length ≤ 56 := by decide +kernel

theorem test_hyp_NarrowOperandsIgnoreHighBits :
    (work 0x00000000F0AAF0AA).errf = false ∧
    ∀ j, j < 32 → (0xDEADBEEFF0AAF0AA : Block).getLsbD j = (work 0x00000000F0AAF0AA).w.getLsbD j := by decide +kernel

theorem test_hyp_SubstLooksUpEveryGroup :
    7 < 8 ∧ (work 5).errf = false ∧ faulted.errf = true := by decide +kernel

theorem test_hyp_LdkeyHexLoadsTheText :
    (State.reset.errf = false ∧ State.reset.klen ≠ 16) ∧
    ((lettersZ).klen = 16 ∧
      hexDigit (bufferRead .kbuf (lettersZ).kbuf 15) = none) ∧
    (digitsZero).klen = 16 ∧
    ∀ j, j < 16 →
      hexDigit (bufferRead .kbuf (digitsZero).kbuf j) ≠ none := by decide +kernel

theorem test_hyp_LdkeyRawLoadsTheBytes :
    (State.reset.errf = false ∧ State.reset.klen ≠ 8) ∧ (keyText [1, 2, 3, 4, 5, 6, 7, 8]).errf = false ∧
    (keyText [1, 2, 3, 4, 5, 6, 7, 8]).klen = 8 := by decide +kernel

theorem test_hyp_KschedWritesTheSchedule :
    State.reset.errf = false ∧ State.reset.kv = false ∧ scheduled.errf = false ∧ scheduled.kv = true := by decide +kernel

theorem test_hyp_KschedLeavesThePc1Halves :
    scheduled.errf = false ∧ scheduled.kv = true := by decide +kernel

theorem test_hyp_RoundTwiceRestores :
    ({ scheduled with r := 5 } : State).errf = false ∧ ({ scheduled with r := 5 } : State).rkv = true := by decide +kernel

theorem test_hyp_BlockCommandsTransformW :
    (State.reset.errf = false ∧ State.reset.rkv = false) ∧ scheduled.errf = false ∧ scheduled.rkv = true := by decide +kernel

theorem test_hyp_BlockRoundTrip :
    ({ scheduled with w := 5 } : State).errf = false ∧ ({ scheduled with w := 5 } : State).rkv = true := by decide +kernel

theorem test_hyp_BlockCommandsEqualPrimitives :
    ({ scheduled with w := 9 } : State).errf = false ∧ ({ scheduled with w := 9 } : State).rkv = true := by decide +kernel

theorem test_hyp_ParityBitsHaveNoEffect :
    (0x133457799BBCDFF1 : Block) &&& 0xFEFEFEFEFEFEFEFE = 0x123556789ABDDEF0 &&& 0xFEFEFEFEFEFEFEFE ∧
    (keyText [0, 0, 0, 0, 0, 0, 0, 0]).errf = false ∧ (keyText [0, 0, 0, 0, 0, 0, 0, 0]).klen = 8 ∧
    (digitsZero).errf = false ∧
    (digitsZero).klen = 16 := by decide +kernel

theorem test_hyp_StaleScheduleIsNeverUsed :
    ∃ t u, (keyText [1, 2, 3, 4, 5, 6, 7, 8]).errf = false ∧ exec .ldkeyRaw (keyText [1, 2, 3, 4, 5, 6, 7, 8]) = .next t ∧ t.errf = false ∧
    exec .ldkeyHex State.reset = .next u ∧ u.errf = true := ⟨_, _, by decide +kernel, rfl, by decide +kernel, rfl, by decide +kernel⟩

theorem test_hyp_RoundXorsTheRoundFunction :
    State.reset.errf = false ∧ State.reset.rkv = false ∧ scheduled.errf = false ∧ scheduled.rkv = true := by decide +kernel

theorem test_hyp_HalvesCommandsMoveHalves :
    (halves 1 2).errf = false := by decide +kernel

theorem test_hyp_FeistelEquivalentForm :
    k1Keys.toList.length = 16 := by decide

theorem test_hyp_BlockDependsOnWAndKeysOnly :
    scheduled.errf = false ∧ ({ scheduled with l := 5, kv := false } : State).errf = false ∧ scheduled.rkv = true ∧
    ({ scheduled with l := 5, kv := false } : State).rkv = true ∧ scheduled.w = ({ scheduled with l := 5, kv := false } : State).w ∧
    scheduled.rk = ({ scheduled with l := 5, kv := false } : State).rk := by decide +kernel

theorem test_hyp_UnpadLooksAtTheLastByte :
    [(0 : Byte)].length % 8 ≠ 0 ∧ ([] : List Byte).length = 0 ∧ ([1, 2, 3, 4, 5, 6, 7] ++ [(9 : Byte)]).length % 8 = 0 ∧
    8 < (9 : Byte).toNat ∧ 1 ≤ (8 : Byte).toNat ∧ (8 : Byte).toNat ≤ 8 ∧ 1 ≤ (1 : Byte).toNat := by decide

theorem test_hyp_PadWritesThePaddedInput :
    State.reset.errf = false ∧ State.reset.ilen.toNat ≤ State.reset.bufMax ∧
    ({ scheduled with ilen := 64 } : State).ilen.toNat = ({ scheduled with ilen := 64 } : State).bufMax := by decide +kernel

theorem test_hyp_UnpadStripsOrFaults :
    (streamIn [1]).errf = false ∧ (streamIn [1]).ilen.toNat % 8 ≠ 0 ∧ State.reset.ilen = 0 ∧ State.reset.errf = false ∧
    (streamIn [1, 1, 1, 1, 1, 1, 1, 8]).errf = false ∧ (streamIn [1, 1, 1, 1, 1, 1, 1, 8]).ilen.toNat % 8 = 0 ∧ (streamIn [1, 1, 1, 1, 1, 1, 1, 8]).ilen ≠ 0 ∧
    (bufferRead .ibuf (streamIn [1, 1, 1, 1, 1, 1, 1, 8]).ibuf ((streamIn [1, 1, 1, 1, 1, 1, 1, 8]).ilen.toNat - 1)).toNat = 8 ∧
    (bufferRead .ibuf (streamIn [1, 1, 1, 1, 1, 1, 1, 9]).ibuf ((streamIn [1, 1, 1, 1, 1, 1, 1, 9]).ilen.toNat - 1)).toNat = 9 := by decide +kernel

theorem test_hyp_EncbytesEncryptsEveryChunk :
    State.reset.errf = false ∧ State.reset.rkv = false ∧ scheduled.rkv = true ∧ (streamIn [1]).errf = false ∧
    (streamIn [1]).ilen.toNat ≤ (streamIn [1]).bufMax := by decide +kernel

/-- Section 3.6: the decrypted streams end in 08 and in 00. -/
theorem test_hyp_DecbytesDecryptsAndStrips :
    (State.reset.errf = false ∧ State.reset.rkv = false) ∧ (streamIn [1]).errf = false ∧ (streamIn [1]).rkv = true ∧ (streamIn [1]).ilen.toNat % 8 ≠ 0 ∧
    scheduled.errf = false ∧ scheduled.rkv = true ∧ scheduled.ilen = 0 ∧ (streamIn [0xF0, 0xBD, 0x4B, 0xB0, 0xC4, 0x19, 0x8F, 0xD3]).errf = false ∧ (streamIn [0xF0, 0xBD, 0x4B, 0xB0, 0xC4, 0x19, 0x8F, 0xD3]).rkv = true ∧
    (streamIn [0xF0, 0xBD, 0x4B, 0xB0, 0xC4, 0x19, 0x8F, 0xD3]).ilen.toNat % 8 = 0 ∧ (streamIn [0xF0, 0xBD, 0x4B, 0xB0, 0xC4, 0x19, 0x8F, 0xD3]).ilen ≠ 0 ∧
    (((List.range ((streamIn [0xF0, 0xBD, 0x4B, 0xB0, 0xC4, 0x19, 0x8F, 0xD3]).ilen.toNat / 8)).flatMap fun j =>
      bytes8 (desDec (streamIn [0xF0, 0xBD, 0x4B, 0xB0, 0xC4, 0x19, 0x8F, 0xD3]).rk (be64 (((streamIn [0xF0, 0xBD, 0x4B, 0xB0, 0xC4, 0x19, 0x8F, 0xD3]).input.drop (8 * j)).take 8)))).getD
        ((streamIn [0xF0, 0xBD, 0x4B, 0xB0, 0xC4, 0x19, 0x8F, 0xD3]).ilen.toNat - 1) 0).toNat = 8 ∧
    (((List.range ((streamIn [0x94, 0x8A, 0x43, 0xF9, 0x8A, 0x83, 0x4F, 0x7E]).ilen.toNat / 8)).flatMap fun j =>
      bytes8 (desDec (streamIn [0x94, 0x8A, 0x43, 0xF9, 0x8A, 0x83, 0x4F, 0x7E]).rk (be64 (((streamIn [0x94, 0x8A, 0x43, 0xF9, 0x8A, 0x83, 0x4F, 0x7E]).input.drop (8 * j)).take 8)))).getD
        ((streamIn [0x94, 0x8A, 0x43, 0xF9, 0x8A, 0x83, 0x4F, 0x7E]).ilen.toNat - 1) 0).toNat = 0 := by decide +kernel

theorem test_hyp_StreamCommandsWriteOutputOnly :
    isStream .pad = true ∧ exec .pad (streamIn [1]) = .next (after .pad (streamIn [1])) ∧
    (after .pad (streamIn [1])).errf = false := ⟨by decide, rfl, by decide +kernel⟩

/-- A state whose input is the output of `ENCBYTES` on the byte 41 under `K1` (section 3.6). -/
def cipherIn : State := streamIn [0x88, 0xBF, 0x49, 0xB7, 0x62, 0x95, 0xAD, 0x8B]

/-- The state before the key is loaded, with the byte 41 as input. -/
def plainIn : State :=
  { keyText [0x13, 0x34, 0x57, 0x79, 0x9B, 0xBC, 0xDF, 0xF1] with ilen := 1, ibuf := holding [0x41] }

theorem test_hyp_StreamRoundTrip :
    plainIn.errf = false ∧ exec .ldkeyRaw plainIn = .next (after .ldkeyRaw plainIn) ∧ (after .ldkeyRaw plainIn).errf = false ∧
    plainIn.ilen.toNat ≤ plainIn.bufMax ∧
    next (fun t => cipherIn.errf = false && cipherIn.rkv && cipherIn.rk = t.rk && cipherIn.ilen = t.olen &&
      cipherIn.ibuf.cells = t.obuf.cells) (runCommands [.ksched, .encbytes] (after .ldkeyRaw plainIn)) = true := ⟨by decide +kernel, rfl, by decide +kernel, by decide +kernel, by decide +kernel⟩

theorem test_hyp_EncryptThenDecryptGivesThePlaintext :
    State.reset.errf = false ∧ [(0x41 : Byte)].length ≤ State.reset.bufMax ∧ [0x31, 0x33, 0x33, 0x34, 0x35, 0x37, 0x37, 0x39, 0x39, 0x42, 0x42, 0x43, 0x44, 0x46, 0x46, 0x31].length = 16 ∧
    (∀ c ∈ [0x31, 0x33, 0x33, 0x34, 0x35, 0x37, 0x37, 0x39, 0x39, 0x42, 0x42, 0x43, 0x44, 0x46, 0x46, 0x31], hexDigit c ≠ none) ∧
    [(0x41 : Byte)].length % 8 ≠ 0 ∧ 8 ≤ State.reset.bufMax := by decide +kernel

theorem test_hyp_EncryptThenDecrypt_edges :
    ([] : List Byte).length ≤ State.reset.bufMax ∧ (List.replicate 64 (0 : Byte)).length = State.reset.bufMax ∧
    (List.replicate 33 (0x30 : Byte)).length ≠ 16 ∧ (List.replicate 15 (0x30 : Byte)).length ≠ 16 ∧
    (List.replicate 16 (0x67 : Byte)).length = 16 ∧ ∃ c ∈ List.replicate 16 (0x67 : Byte), hexDigit c = none := by decide +kernel

theorem test_hyp_StreamLengths :
    ∃ t u, (streamIn [1]).errf = false ∧ (streamIn [1]).ilen.toNat ≤ (streamIn [1]).bufMax ∧ exec .encbytes (streamIn [1]) = .next t ∧
    t.errf = false ∧ exec .decbytes cipherIn = .next u ∧ u.errf = false := ⟨_, _, by decide +kernel, by decide +kernel, rfl, by decide +kernel, rfl, by decide +kernel⟩

theorem test_hyp_StreamsAreDeterministicChunkwise :
    (streamIn [7]).errf = false ∧ ({ streamIn [7] with w := 1 } : State).errf = false ∧ (streamIn [7]).rkv = true ∧
    (streamIn [7]).rk = ({ streamIn [7] with w := 1 } : State).rk ∧ (streamIn [7]).ilen = ({ streamIn [7] with w := 1 } : State).ilen ∧
    (streamIn [7]).ilen.toNat ≤ (streamIn [7]).bufMax ∧
    ∀ j, j < 1 → bufferRead .ibuf (streamIn [7]).ibuf j = bufferRead .ibuf ({ streamIn [7] with w := 1 } : State).ibuf j := by decide +kernel

theorem test_hyp_StreamsAreDeterministicChunkwise_chunks :
    0 < (streamIn [1, 2, 3, 4, 5, 6, 7, 8, 1, 2, 3, 4, 5, 6, 7, 8]).ilen.toNat / 8 ∧
    1 < (streamIn [1, 2, 3, 4, 5, 6, 7, 8, 1, 2, 3, 4, 5, 6, 7, 8]).ilen.toNat / 8 ∧
    ∀ i, i < 8 → bufferRead .ibuf (streamIn [1, 2, 3, 4, 5, 6, 7, 8, 1, 2, 3, 4, 5, 6, 7, 8]).ibuf (8 * 0 + i) =
      bufferRead .ibuf (streamIn [1, 2, 3, 4, 5, 6, 7, 8, 1, 2, 3, 4, 5, 6, 7, 8]).ibuf (8 * 1 + i) := by decide +kernel

theorem test_hyp_StatusFlagsChangeOnlyAsStated :
    ∃ t u v, exec .ldkeyRaw plainIn = .next t ∧ t.kv ≠ plainIn.kv ∧ plainIn.errf = false ∧ t.errf = false ∧
    exec .ksched t = .next u ∧ u.rkv ≠ t.rkv ∧ u.errf = false ∧ perform .reset u = .next v ∧
    perform (.readReg 0x21) u = .next { u with reply := .value (u.readReg .status) } ∧ Transaction.readReg 0x21 ≠ .reset ∧
    ∀ w, Transaction.readReg 0x21 ≠ .writeReg 0x20 w := ⟨_, _, _, rfl, by decide +kernel, by decide +kernel, by decide +kernel, rfl, by decide +kernel, by decide +kernel, rfl, rfl, by decide,
    nofun⟩

theorem test_hyp_RegistersWrittenOnlyByTheirCommands :
    exec .swap (halves 1 2) = .next (halves 2 1) ∧ (halves 2 1).l ≠ (halves 1 2).l ∧ (halves 2 1).r ≠ (halves 1 2).r ∧
    exec .ksched State.reset = .next (State.reset.raise .keyNotLoaded) ∧ (State.reset.raise .keyNotLoaded).err ≠ State.reset.err := ⟨rfl, by decide, by decide, rfl, by decide +kernel⟩

theorem test_hyp_CommandsKeepMemory :
    (streamIn [1]).ilen.toNat ≤ (streamIn [1]).bufMax ∧ (streamIn [1]).errf = false ∧ isStream .pad = true ∧
    exec .pad (streamIn [1]) = .next (after .pad (streamIn [1])) ∧ isStream .swap = false ∧
    exec .swap (halves 1 2) = .next (halves 2 1) ∧ (halves 2 1).err = (halves 1 2).err := ⟨by decide +kernel, by decide +kernel, by decide, rfl, by decide, rfl, by decide +kernel⟩

theorem test_hyp_ResetGivesTheResetValues :
    misconfigured.err.byte = 0x04 ∧ tablesValid brokenTables = false := by decide +kernel

theorem test_hyp_WriteRegTakesWhatIsInRange :
    (0x23 : BitVec 8) ≠ 0x20 ∧ (32 : Block).toNat ≤ 32 ∧ ¬ (33 : Block).toNat ≤ 32 ∧ (64 : Block).toNat ≤ State.reset.bufMax ∧
    ¬ (65 : Block).toNat ≤ State.reset.bufMax := by decide +kernel

theorem test_hyp_HostAccessReadsAndWritesBytes :
    Space.ibuf ≠ .obuf ∧ [(1 : Byte), 2].length = 2 ∧ 62 + 2 ≤ State.reset.capacity .ibuf ∧ State.reset.capacity .ibuf < 63 + 2 ∧
    70 + 2 ≤ State.reset.capacity .obuf ∧ State.reset.capacity .obuf < 71 + 2 ∧ [(1 : Byte)].length ≠ 2 ∧ Space.kbuf ≠ .ibuf := by decide +kernel

theorem test_hyp_StepKeepsTheBufferInvariant :
    BufferInv ((after .pad (streamIn [0x41])).withFetchWord 8 0x71) ∧
    step ((after .pad (streamIn [0x41])).withFetchWord 8 0x71) = .next (after .unpad ((after .pad (streamIn [0x41])).take [])) := ⟨by constructor <;> decide +kernel, rfl⟩

theorem test_hyp_StepKeepsTheScheduleInvariant :
    ScheduleInv (scheduled.withFetchWord 8 0x51) ∧ step (scheduled.withFetchWord 8 0x51) = .next (after .swap (scheduled.take [])) := ⟨by constructor <;> decide +kernel, rfl⟩

theorem test_hyp_BufMaxIsLegalAndFixed :
    step (State.reset.withFetchWord 8 0x51) = .next (after .swap (State.reset.take [])) := rfl

theorem test_hyp_OnlyUndefinedBufferAccessStops :
    step { State.reset with pending := [.memRead .kbuf 0 33] } = .refused (.outsideBuffer .kbuf) ∧
    step { State.reset with pending := [.memWrite .obuf 0 1 [0]] } = .refused .bufferNotWritable := ⟨rfl, rfl⟩

end Sys2Proof.Tests
end

/-! # Lengths, buffers and `ERR`

What a step can do to the lengths, the buffers, `ERR` and `BUF_MAX` is said once (`step_effect`); the statements of the
family 00_scope follow by cases on that effect. -/

namespace Sys2Proof

open Machine

/-! ## Addresses written from 0 upward -/

/-- A write above every address of a memory appends its cell. -/
theorem memoryWrite_above {m : Memory} {a : Nat} (h : ∀ x ∈ m, x.1 < a) (b : Byte) :
    memoryWrite m a b = m ++ [(a, b)] := by
  induction m with
  | nil => rfl
  | cons x rest ih =>
    have hx : x.1 < a := h x List.mem_cons_self
    rw [memoryWrite, if_neg (by omega), if_neg (by omega), ih fun y hy => h y (List.mem_cons_of_mem _ hy)]
    rfl

/-- Writing on from the first free address leaves no gap. -/
theorem memoryWriteBytes_addresses {m : Memory} {a : Nat} (h : m.map Prod.fst = List.range a) (bs : List Byte) :
    (memoryWriteBytes m a bs).map Prod.fst = List.range (a + bs.length) := by
  induction bs generalizing m a with
  | nil => exact h
  | cons b bs ih =>
    have hlt : ∀ x ∈ m, x.1 < a := fun x hx => List.mem_range.mp (h ▸ List.mem_map_of_mem hx)
    have hm : (memoryWrite m a b).map Prod.fst = List.range (a + 1) := by
      rw [memoryWrite_above hlt, List.map_append, h, List.range_succ]; rfl
    rw [memoryWriteBytes, ih hm, List.length_cons, Nat.add_assoc, Nat.add_comm 1]

/-- A write inside a bound keeps every address inside it. -/
theorem memoryWriteBytes_lt {m : Memory} {a n : Nat} {bs : List Byte} (hm : ∀ x ∈ m, x.1 < n)
    (ha : a + bs.length ≤ n) : ∀ x ∈ memoryWriteBytes m a bs, x.1 < n := by
  intro x hx
  rcases mem_memoryWriteBytes hx with ⟨_, hlt⟩ | hold
  · omega
  · exact hm x hold

/-! ## Lengths of the streams that go out -/

@[simp] theorem input_length (s : State) : s.input.length = s.ilen.toNat := bufferReadBytes_length ..

@[simp] theorem mapChunks_length (g : Block → Block) (m : Nat) (bs : List Byte) :
    (mapChunks g m bs).length = 8 * m := by
  induction m generalizing bs with
  | zero => rfl
  | succ m ih => simp [mapChunks, bytes8, ih]; omega

theorem pad8_length_le (bs : List Byte) : (pad8 bs).length ≤ bs.length + 8 := by
  simp [pad8, padCount]

theorem encryptStream_length_le (rk : Vector RoundKey 16) (bs : List Byte) :
    (encryptStream rk bs).length ≤ bs.length + 8 := by
  have := pad8_length_le bs
  simp only [encryptStream, mapChunks_length]
  omega

theorem decryptStream_length_le (rk : Vector RoundKey 16) (bs : List Byte) :
    (decryptStream rk bs).length ≤ bs.length := by
  simp only [decryptStream, mapChunks_length]
  omega

/-- What `unpad8` can answer: one of its own three failures, or a beginning of the stream. -/
theorem unpad8_cases (bs : List Byte) :
    (∃ e, unpad8 bs = .error e ∧ (e = .malformedLength ∨ e = .malformedEmpty ∨ e = .malformedPad)) ∨
    ∃ n, unpad8 bs = .ok (bs.take n) := by
  unfold unpad8
  split
  · exact .inl ⟨_, rfl, .inl rfl⟩
  · split
    · exact .inl ⟨_, rfl, .inr (.inl rfl)⟩
    · dsimp only
      split
      · exact .inl ⟨_, rfl, .inr (.inr rfl)⟩
      · exact .inr ⟨_, rfl⟩

/-! ## What a command can do to lengths, buffers and `ERR` -/

/-- `t` has the lengths, the buffers, the `ERR` and the `BUF_MAX` of `s`. -/
structure KeepsBuffers (s t : State) : Prop where
  err : t.err = s.err
  klen : t.klen = s.klen
  ilen : t.ilen = s.ilen
  olen : t.olen = s.olen
  kbuf : t.kbuf = s.kbuf
  ibuf : t.ibuf = s.ibuf
  obuf : t.obuf = s.obuf
  bufBlocks : t.bufBlocks = s.bufBlocks

/-- The ways a command, or an illegal word, can treat lengths, buffers and `ERR`. -/
inductive CommandEffect (s : State) : State → Prop where
  /-- It leaves them as they are. -/
  | keeps {t : State} (h : KeepsBuffers s t) : CommandEffect s t
  /-- `CLRERR` (R183). -/
  | clearError : CommandEffect s s.clearError
  /-- Fault entry (R193), never with `ConfigurationError` (R107). -/
  | raise (e : Err) (he : e ≠ .configurationError) : CommandEffect s (s.raise e)
  /-- The output of a stream command: at most one block longer than the input (R160, R164). -/
  | output (bs : List Byte) (hs : s.errf = false) (hbs : bs.length ≤ s.ilen.toNat + 8) : CommandEffect s (s.output bs)

theorem KeepsBuffers.refl (s : State) : KeepsBuffers s s := by constructor <;> rfl

theorem KeepsBuffers.setResult {n : Nat} (v : BitVec n) (s : State) : KeepsBuffers s (s.setResult v) := by
  constructor <;> rfl

theorem KeepsBuffers.loadKey (k : Block) (s : State) : KeepsBuffers s (s.loadKey k) := by constructor <;> rfl

theorem KeepsBuffers.setBlock (f : FeistelResult) (s : State) : KeepsBuffers s (s.setBlock f) := by
  constructor <;> rfl

theorem KeepsBuffers.take (ts : List Transaction) (s : State) : KeepsBuffers s (s.take ts) := by constructor <;> rfl

/-- A command has the effect of its body, which runs only with no fault recorded. -/
theorem unlessFaulted_effect {body : State → State} {s t : State} (h : unlessFaulted body s = .next t)
    (hb : s.errf = false → CommandEffect s (body s)) : CommandEffect s t := by
  rcases unlessFaulted_cases h with ⟨_, rfl⟩ | ⟨hs, rfl⟩
  · exact .keeps (.refl _)
  · exact hb hs

theorem withSchedule_effect {body : State → State} {s : State} (hb : CommandEffect s (body s)) :
    CommandEffect s (withSchedule body s) := by
  rcases withSchedule_cases body s with ⟨_, h⟩ | ⟨_, h⟩
  · exact h ▸ hb
  · exact h ▸ .raise _ nofun

theorem outputUnpadded_effect {s : State} {bs : List Byte} (hs : s.errf = false) (hbs : bs.length ≤ s.ilen.toNat) :
    CommandEffect s (s.outputUnpadded bs) := by
  rw [State.outputUnpadded]
  rcases unpad8_cases bs with ⟨e, h, he⟩ | ⟨n, h⟩
  · rw [h]
    exact .raise e (by rcases he with rfl | rfl | rfl <;> nofun)
  · rw [h]
    refine .output _ hs ?_
    rw [List.length_take]
    omega

theorem permuteW_effect {n m : Nat} {tab : List Nat} {s t : State} (h : permuteW n m tab s = .next t) :
    CommandEffect s t := unlessFaulted_effect h fun _ => .keeps (.setResult _ _)

/-- With the tables of this hardware the check of `TBLCHK` passes (R107). -/
theorem tableCheck_theTables (s : State) : tableCheck theTables s = s := by
  rw [tableCheck, if_pos tablesValid_theTables]

/-- Unfolding `exec` at once keeps the kernel from evaluating the constant tables when it compares two arms. -/
theorem exec_effect {i : Instr} {s t : State} (h : exec i s = .next t) : CommandEffect s t := by
  cases i <;> rw [exec] at h
  case clrerr => cases h; exact .clearError
  case tblchk =>
    rw [execTblchk] at h
    refine unlessFaulted_effect h fun _ => ?_
    rw [tableCheck_theTables]
    exact .keeps (.refl s)
  case permIp | permFp | permE | permP | permPc1 | permPc2 => exact permuteW_effect h
  case subst => exact unlessFaulted_effect h fun _ => .keeps (.setResult _ _)
  case ldkeyHex =>
    rw [execLdkeyHex] at h
    refine unlessFaulted_effect h fun _ => ?_
    split
    · exact .raise _ nofun
    · split
      · exact .raise _ nofun
      · exact .keeps (.loadKey _ _)
  case ldkeyRaw =>
    rw [execLdkeyRaw] at h
    refine unlessFaulted_effect h fun _ => ?_
    split
    · exact .raise _ nofun
    · exact .keeps (.loadKey _ _)
  case ksched =>
    rw [execKsched] at h
    refine unlessFaulted_effect h fun _ => ?_
    split
    · exact .keeps (by constructor <;> rfl)
    · exact .raise _ nofun
  case round k => exact unlessFaulted_effect h fun _ => withSchedule_effect (.keeps (by constructor <;> rfl))
  case split | swap | join =>
    simp only [execSplit, execSwap, execJoin] at h
    exact unlessFaulted_effect h fun _ => .keeps (by constructor <;> rfl)
  case encblk | decblk => exact unlessFaulted_effect h fun _ => withSchedule_effect (.keeps (.setBlock _ _))
  case pad =>
    refine unlessFaulted_effect h fun hs => .output _ hs ?_
    simpa using pad8_length_le s.input
  case unpad => exact unlessFaulted_effect h fun hs => outputUnpadded_effect hs (input_length s).le
  case encbytes =>
    refine unlessFaulted_effect h fun hs => withSchedule_effect (.output _ hs ?_)
    simpa using encryptStream_length_le s.rk s.input
  case decbytes =>
    refine unlessFaulted_effect h fun hs => withSchedule_effect ?_
    split
    · exact .raise _ nofun
    · split
      · exact .raise _ nofun
      · exact outputUnpadded_effect hs (by simpa using decryptStream_length_le s.rk s.input)

theorem writeCommand_effect {v : Block} {s t : State} (h : writeCommand v s = .next t) : CommandEffect s t := by
  rcases writeCommand_cases v s with ⟨i, _, hv⟩ | ⟨e, _, hv⟩ <;> rw [hv] at h
  · exact exec_effect h
  · exact unlessFaulted_effect h fun _ => .raise .illegalCommand nofun

/-! ## What a transaction, and a step, can do to them -/

/-- The ways a transaction can treat lengths, buffers and `ERR`. -/
inductive TransactionEffect (s : State) : State → Prop where
  /-- A write to `CMD`, or a transaction that leaves them as they are. -/
  | command {t : State} (h : CommandEffect s t) : TransactionEffect s t
  /-- `Reset` (R220). -/
  | reset : TransactionEffect s (s.resetCore theTables)
  /-- `WriteReg(KLEN)` in range (R30). -/
  | klen (v : Block) (h : v.toNat ≤ Config.kbufMax) : TransactionEffect s { s with klen := v.setWidth 32 }
  /-- `WriteReg(ILEN)` in range (R30). -/
  | ilen (v : Block) (h : v.toNat ≤ s.bufMax) : TransactionEffect s { s with ilen := v.setWidth 32 }
  /-- `MemWrite(KBUF)` inside the capacity (R53). -/
  | kbuf (a : Nat) (bs : List Byte) (h : a + bs.length ≤ Config.kbufMax) :
    TransactionEffect s { s with kbuf := bufferWriteBytes s.kbuf a bs }
  /-- `MemWrite(IBUF)` inside the capacity (R53). -/
  | ibuf (a : Nat) (bs : List Byte) (h : a + bs.length ≤ s.bufMax) :
    TransactionEffect s { s with ibuf := bufferWriteBytes s.ibuf a bs }

theorem TransactionEffect.keeps {s t : State} (h : KeepsBuffers s t) : TransactionEffect s t := .command (.keeps h)

theorem writeReg_effect (v : Block) (s : State) (reg : Reg) : TransactionEffect s (s.writeReg v reg) := by
  cases reg
  case klen =>
    rw [State.writeReg]
    split
    · exact .klen v ‹_›
    · exact .keeps (.refl s)
  case ilen =>
    rw [State.writeReg]
    split
    · exact .ilen v ‹_›
    · exact .keeps (.refl s)
  all_goals exact .keeps (by constructor <;> rfl)

theorem hostWrite_effect {space : Space} {a n : Nat} {bs : List Byte} {s t : State}
    (h : hostWrite space a n bs s = .next t) : TransactionEffect s t := by
  rcases hostWrite_cases space a n bs s with ⟨_, e⟩ | ⟨_, _, e⟩ | ⟨rfl, hcap, ⟨rfl, e⟩ | ⟨rfl, e⟩ | ⟨_, e⟩⟩ <;>
    rw [e] at h <;> cases h
  · exact .kbuf a bs hcap
  · exact .ibuf a bs hcap

theorem hostRead_effect {space : Space} {a n : Nat} {s t : State} (h : hostRead space a n s = .next t) :
    TransactionEffect s t := by
  rcases hostRead_cases space a n s with ⟨_, e⟩ | ⟨_, e⟩ <;> rw [e] at h <;> cases h
  exact .keeps (by constructor <;> rfl)

theorem perform_effect {x : Transaction} {s t : State} (h : perform x s = .next t) : TransactionEffect s t := by
  cases x with
  | reset => cases h; exact .reset
  | writeReg n v =>
    rw [perform] at h
    split at h
    · exact .command (writeCommand_effect h)
    · cases h; exact writeReg_effect v s _
  | readReg n => cases h; exact .keeps (by constructor <;> rfl)
  | memWrite space a n bs => exact hostWrite_effect h
  | memRead space a n => exact hostRead_effect h

/-- A step is the effect of one transaction on a state with the same lengths, buffers and `ERR`. -/
theorem step_effect {s t : State} (h : step s = .next t) : ∃ u, KeepsBuffers s u ∧ TransactionEffect u t := by
  rw [step, performNext] at h
  split at h
  · cases h; exact ⟨s, .refl s, .keeps (.refl s)⟩
  · exact ⟨_, .take _ s, perform_effect h⟩

/-! ## `BUF_MAX` -/

/-- R5: `BUF_MAX` is a multiple of 8 from 8 to 2^32 − 16. -/
theorem bufMax_legal (s : State) : 8 ≤ s.bufMax ∧ s.bufMax ≤ 2 ^ 32 - 16 ∧ s.bufMax % 8 = 0 := by
  have := s.bufBlocks.isLt
  simp only [State.bufMax, Config.bufMax]
  omega

theorem clearError_bufBlocks (s : State) : s.clearError.bufBlocks = s.bufBlocks := by
  rcases clearError_cases s with ⟨_, h⟩ | ⟨_, h⟩ <;> rw [h]

theorem CommandEffect.bufBlocks {s t : State} (h : CommandEffect s t) : t.bufBlocks = s.bufBlocks := by
  cases h with
  | keeps hk => exact hk.bufBlocks
  | clearError => exact clearError_bufBlocks s
  | raise | output => rfl

theorem TransactionEffect.bufBlocks {s t : State} (h : TransactionEffect s t) : t.bufBlocks = s.bufBlocks := by
  cases h with
  | command hc => exact hc.bufBlocks
  | reset | klen | ilen | kbuf | ibuf => rfl

/-- No step changes the parameter `BUF_MAX` (R5). -/
theorem step_bufBlocks {s t : State} (h : step s = .next t) : t.bufBlocks = s.bufBlocks := by
  obtain ⟨u, hsu, hut⟩ := step_effect h
  exact hut.bufBlocks.trans hsu.bufBlocks

/-- Settles O59: the bound of `BufBlocks` is R5's range, and every effect of a step keeps the field. -/
theorem bufMaxIsLegalAndFixed : Obligations.BufMaxIsLegalAndFixed :=
  ⟨bufMax_legal, fun _ _ h => congrArg Config.bufMax (step_bufBlocks h)⟩

/-! ## Every effect keeps the invariant of lengths, buffers and `ERR` -/

namespace BufferInv

variable {s t : State}

theorem of_keeps (h : BufferInv s) (hk : KeepsBuffers s t) : BufferInv t where
  klen_le := hk.klen ▸ h.klen_le
  ilen_le := by rw [hk.ilen, State.bufMax, hk.bufBlocks]; exact h.ilen_le
  olen_le := by rw [hk.olen, State.bufMax, hk.bufBlocks]; exact h.olen_le
  kbuf_wf := hk.kbuf ▸ h.kbuf_wf
  ibuf_wf := hk.ibuf ▸ h.ibuf_wf
  obuf_wf := hk.obuf ▸ h.obuf_wf
  kbuf_lt := hk.kbuf ▸ h.kbuf_lt
  ibuf_lt := by rw [hk.ibuf, State.bufMax, hk.bufBlocks]; exact h.ibuf_lt
  obuf_valid := by rw [hk.obuf, hk.olen]; exact h.obuf_valid
  fault_void := by rw [State.errf, hk.err, hk.olen]; exact h.fault_void
  err_ne := hk.err ▸ h.err_ne

/-- Fault entry empties `OBUF` and zeroes `OLEN` together (R193). -/
theorem raise (h : BufferInv s) {e : Err} (he : e ≠ .configurationError) : BufferInv (s.raise e) :=
  { h with
    olen_le := Nat.zero_le _
    obuf_wf := bufferVoid_wf _
    obuf_valid := rfl
    fault_void := fun _ => rfl
    err_ne := he }

theorem clearError (h : BufferInv s) : BufferInv s.clearError := by
  rcases clearError_cases s with ⟨_, hc⟩ | ⟨_, hc⟩ <;> rw [hc]
  · exact h
  · exact { h with fault_void := nofun, err_ne := nofun }

/-- A stream command's output fits `OBUF`, and its length fits the 32 bits of `OLEN` (R5, R12). -/
theorem output (h : BufferInv s) (hs : s.errf = false) {bs : List Byte} (hbs : bs.length ≤ s.ilen.toNat + 8) :
    BufferInv (s.output bs) := by
  obtain ⟨-, hmax, -⟩ := bufMax_legal s
  have hilen := h.ilen_le
  have holen : (s.output bs).olen.toNat = bs.length := by
    rw [State.output_olen, BitVec.toNat_ofNat, Nat.mod_eq_of_lt (by omega)]
  exact { h with
    olen_le := by rw [holen]; exact hbs.trans (Nat.add_le_add_right hilen 8)
    obuf_wf := bufferWriteBytes_wf (bufferVoid_wf _) 0 bs
    obuf_valid := by rw [holen]; simpa using memoryWriteBytes_addresses (m := []) (a := 0) rfl bs
    fault_void := fun hf => absurd (hs.symm.trans hf) nofun }

theorem of_commandEffect (h : BufferInv s) (he : CommandEffect s t) : BufferInv t := by
  cases he with
  | keeps hk => exact h.of_keeps hk
  | clearError => exact h.clearError
  | raise _ he => exact h.raise he
  | output _ hs hbs => exact h.output hs hbs

/-- `Reset` voids all three buffers and zeroes the lengths, and its table check passes (R33, R220). -/
theorem resetCore (s : State) : BufferInv (s.resetCore theTables) where
  klen_le := Nat.zero_le _
  ilen_le := Nat.zero_le _
  olen_le := Nat.zero_le _
  kbuf_wf := bufferVoid_wf _
  ibuf_wf := bufferVoid_wf _
  obuf_wf := bufferVoid_wf _
  kbuf_lt := nofun
  ibuf_lt := nofun
  obuf_valid := rfl
  fault_void := fun _ => rfl
  err_ne := by rw [State.resetCore_err, resetErr_theTables]; nofun

theorem of_transactionEffect (h : BufferInv s) (he : TransactionEffect s t) : BufferInv t := by
  cases he with
  | command hc => exact h.of_commandEffect hc
  | reset => exact resetCore s
  | klen v hv => exact { h with klen_le := (BitVec.toNat_setWidth 32 v ▸ Nat.mod_le _ _).trans hv }
  | ilen v hv => exact { h with ilen_le := (BitVec.toNat_setWidth 32 v ▸ Nat.mod_le _ _).trans hv }
  | kbuf a bs ha =>
    exact { h with
      kbuf_wf := bufferWriteBytes_wf h.kbuf_wf a bs
      kbuf_lt := memoryWriteBytes_lt h.kbuf_lt ha }
  | ibuf a bs ha =>
    exact { h with
      ibuf_wf := bufferWriteBytes_wf h.ibuf_wf a bs
      ibuf_lt := memoryWriteBytes_lt h.ibuf_lt ha }

end BufferInv

/-- Settles O56, by cases on the effect of the transaction that the step performs. -/
theorem stepKeepsTheBufferInvariant : Obligations.StepKeepsTheBufferInvariant := by
  intro s t h hstep
  obtain ⟨u, hsu, hut⟩ := step_effect hstep
  exact (h.of_keeps hsu).of_transactionEffect hut

end Sys2Proof

/-! # Registers, flags and the key schedule

What a command can write to the registers is said once (`exec_registerEffect`), and what a transaction can do to the key and its
schedule once (`perform_keyState_cases`); the statements of the family 10_state follow by cases on these. -/

namespace Sys2Proof

open Machine

/-! ## The fields of `ERR` and the bits of `STATUS` -/

/-- R28: `CODE` stands in `ERR[2:0]`. -/
theorem errByte_code (e : Err) : e.byte.extractLsb' 0 3 = e.code := by cases e <;> rfl

/-- R28: `SUB` stands in `ERR[7:4]`. -/
theorem errByte_sub (e : Err) : e.byte.extractLsb' 4 4 = e.sub := by cases e <;> rfl

theorem errByte_bit_three (e : Err) : e.byte.getLsbD 3 = false := by cases e <;> rfl

theorem errByte_toNat (e : Err) : e.byte.toNat = 16 * e.sub.toNat + e.code.toNat := by cases e <;> rfl

/-- Settles O6, by cases on the ten values of `ERR`. -/
theorem faultCodesAndBytes : Obligations.FaultCodesAndBytes :=
  ⟨⟨rfl, rfl, rfl, rfl, rfl, rfl, rfl, rfl, rfl, rfl⟩, fun e => ⟨errByte_code e, errByte_bit_three e, errByte_sub e⟩⟩

theorem status_toNat (s : State) : s.status.toNat = s.kv.toNat + 2 * s.rkv.toNat + 4 * s.errf.toNat := by
  rw [State.status]
  cases s.kv <;> cases s.rkv <;> cases s.errf <;> rfl

theorem status_bits (s : State) :
    s.status.getLsbD 0 = s.kv ∧ s.status.getLsbD 1 = s.rkv ∧ s.status.getLsbD 2 = s.errf := by
  rw [State.status]
  cases s.kv <;> cases s.rkv <;> cases s.errf <;> exact ⟨rfl, rfl, rfl⟩

/-- R27: the bits of `STATUS` above `ERRF` read as zero. -/
theorem status_high (s : State) {j : Nat} (h : 3 ≤ j) : s.status.getLsbD j = false := by
  have hlt : s.status.toNat < 2 ^ 3 := by
    rw [status_toNat]
    have := s.kv.toNat_le
    have := s.rkv.toNat_le
    have := s.errf.toNat_le
    omega
  rw [← BitVec.testBit_toNat]
  exact Nat.testBit_lt_two_pow (hlt.trans_le (Nat.pow_le_pow_right (by decide) h))

/-- R27: `ERRF` is 1 exactly when `ERR[2:0]` is not zero. -/
theorem errf_iff_code (s : State) : s.errf = true ↔ s.err.byte.extractLsb' 0 3 ≠ 0 := by
  rw [errByte_code, State.errf, bne_iff_ne]

/-! ## The registers by number -/

/-- The numbers of R20, `CMD` last, beside the unassigned numbers, which read as 0 as it does (R29, R31). -/
theorem regOfNumber_eq (n : BitVec 8) : regOfNumber n =
    if n = 0x00 then .w else if n = 0x01 then .l else if n = 0x02 then .r
    else if n = 0x03 then .key else if n = 0x04 then .c else if n = 0x05 then .d
    else if 0x10 ≤ n.toNat ∧ n.toNat ≤ 0x1F then .rk (Fin.ofNat 16 (n.toNat - 0x10))
    else if n = 0x21 then .status else if n = 0x22 then .err
    else if n = 0x23 then .klen else if n = 0x24 then .ilen else if n = 0x25 then .olen
    else if n = 0x20 then .cmd else .unassigned := by
  revert n; decide +kernel

/-- R180: a round key is read zero-extended. -/
theorem readReg_rk_toNat (s : State) (i : Nat) (h : i < 16) :
    (s.readReg (.rk (Fin.ofNat 16 i))).toNat = (s.rk.toList.getD i 0).toNat := by
  have hi : Fin.ofNat 16 i = ⟨i, h⟩ := Fin.ext (Nat.mod_eq_of_lt h)
  rw [hi, State.readReg, BitVec.toNat_setWidth_of_le (by decide)]
  simp [List.getD_eq_getElem?_getD, h]

/-- Settles O52, number by number. -/
theorem readRegReturnsTheRegister : Obligations.ReadRegReturnsTheRegister := by
  intro s n
  refine ⟨s.readReg (regOfNumber n), rfl, ?_⟩
  rw [regOfNumber_eq]
  simp only [apply_ite (State.readReg s), apply_ite BitVec.toNat]
  refine ite_congr rfl (fun _ => rfl) fun _ => ?_
  refine ite_congr rfl (fun _ => BitVec.toNat_setWidth_of_le (b := s.l) (by decide)) fun _ => ?_
  refine ite_congr rfl (fun _ => BitVec.toNat_setWidth_of_le (b := s.r) (by decide)) fun _ => ?_
  refine ite_congr rfl (fun _ => rfl) fun _ => ?_
  refine ite_congr rfl (fun _ => BitVec.toNat_setWidth_of_le (b := s.c) (by decide)) fun _ => ?_
  refine ite_congr rfl (fun _ => BitVec.toNat_setWidth_of_le (b := s.d) (by decide)) fun _ => ?_
  refine ite_congr rfl (fun hn => readReg_rk_toNat s _ (by omega)) fun _ => ?_
  refine ite_congr rfl (fun _ => (BitVec.toNat_setWidth_of_le (b := s.status) (by decide)).trans (status_toNat s))
    fun _ => ?_
  refine ite_congr rfl (fun _ => (BitVec.toNat_setWidth_of_le (b := s.err.byte) (by decide)).trans (errByte_toNat s.err))
    fun _ => ?_
  refine ite_congr rfl (fun _ => BitVec.toNat_setWidth_of_le (b := s.klen) (by decide)) fun _ => ?_
  refine ite_congr rfl (fun _ => BitVec.toNat_setWidth_of_le (b := s.ilen) (by decide)) fun _ => ?_
  refine ite_congr rfl (fun _ => BitVec.toNat_setWidth_of_le (b := s.olen) (by decide)) fun _ => ?_
  exact ite_self _

theorem regOfNumber_eq_cmd (n : BitVec 8) : regOfNumber n = .cmd ↔ n = 0x20 := by
  revert n; decide +kernel

/-- A write to any register but `CMD` is `State.writeReg` on the register named. -/
theorem perform_writeReg {n : BitVec 8} (h : n ≠ 0x20) (v : Block) (s : State) :
    perform (.writeReg n v) s = .next (s.writeReg v (regOfNumber n)) := by
  have hcmd : regOfNumber n ≠ .cmd := mt (regOfNumber_eq_cmd n).mp h
  rw [perform]
  split
  · exact absurd ‹_› hcmd
  · rfl

/-- R31: every register number but those of `W`, `L`, `R`, `KLEN` and `ILEN` ignores a write. -/
theorem writeReg_ignored {n : BitVec 8} (hw : n ≠ 0x00) (hl : n ≠ 0x01) (hr : n ≠ 0x02) (hk : n ≠ 0x23)
    (hi : n ≠ 0x24) (v : Block) (s : State) : s.writeReg v (regOfNumber n) = s := by
  rw [regOfNumber_eq, if_neg hw, if_neg hl, if_neg hr, if_neg hk, if_neg hi]
  simp only [apply_ite (s.writeReg v)]
  simp only [State.writeReg, ite_self]

/-- Settles O53, by the register the number names. -/
theorem writeRegTakesWhatIsInRange : Obligations.WriteRegTakesWhatIsInRange := by
  intro s n v hcmd
  rw [perform_writeReg hcmd]
  congr 1
  by_cases hw : n = 0x00
  · subst hw; rfl
  by_cases hl : n = 0x01
  · subst hl; rfl
  by_cases hr : n = 0x02
  · subst hr; rfl
  rw [if_neg hw, if_neg hl, if_neg hr]
  by_cases hk : n = 0x23
  · subst hk
    exact if_congr (and_iff_right rfl).symm rfl (if_neg fun h => absurd h.1 (by decide)).symm
  rw [if_neg fun h => hk h.1]
  by_cases hi : n = 0x24
  · subst hi
    exact if_congr (and_iff_right rfl).symm rfl rfl
  rw [if_neg fun h => hi h.1, writeReg_ignored hw hl hr hk hi]

/-! ## What a command can write to the registers -/

/-- The commands that write `W` and no other register (R20). -/
def workCommands : List Instr :=
  [.permIp, .permFp, .permE, .permP, .permPc1, .permPc2, .subst, .join]

/-- The ways a command can end, with what it writes and under which guard (the column "written by" of R20). -/
inductive RegisterEffect (i : Instr) (s : State) : State → Prop where
  /-- The command is ignored under a fault (R181), or is `TBLCHK`, whose check passes (R107). -/
  | unchanged (h : s.errf = true ∨ i = .tblchk) : RegisterEffect i s s
  /-- `CLRERR` writes `ERR` alone (R183). -/
  | clrerr (hi : i = .clrerr) (e : Err) (he : e = .clear ∨ e = s.err) : RegisterEffect i s { s with err := e }
  /-- Fault entry with a fault of the command's row of R192; `CODE` 5 only when the flag that the command tests is 0. -/
  | fault (e : Err) (he : e ∈ raisable i) (hk : e = .keyNotLoaded → s.kv = false)
      (hr : e = .scheduleNotLoaded → s.rkv = false) : RegisterEffect i s (s.raise e)
  /-- A result in `W` alone (R21, R144). -/
  | work (hi : i ∈ workCommands) (v : Block) :
      RegisterEffect i s { s with w := v }
  /-- A successful key load (R121, R122). -/
  | loadKey (hi : i = .ldkeyHex ∨ i = .ldkeyRaw) (k : Block) : RegisterEffect i s (s.loadKey k)
  /-- A successful `KSCHED` (R125). -/
  | schedule (hi : i = .ksched) (hk : s.kv = true) : RegisterEffect i s
      { s with
        rk := deriveRoundKeys s.key, c := (keyHalves s.key 16).1, d := (keyHalves s.key 16).2, rkv := true }
  /-- `ROUND k` writes `L` alone (R141). -/
  | round (k : Fin 16) (hi : i = .round k) (l : Half) : RegisterEffect i s { s with l := l }
  /-- `SPLIT` and `SWAP` (R142, R143). -/
  | halves (hi : i ∈ [.split, .swap]) (l r : Half) : RegisterEffect i s { s with l := l, r := r }
  /-- The block commands (R147, R148). -/
  | block (hi : i ∈ [.encblk, .decblk]) (f : FeistelResult) : RegisterEffect i s (s.setBlock f)
  /-- The output of a stream command (R51). -/
  | output (hi : isStream i = true) (bs : List Byte) : RegisterEffect i s (s.output bs)

theorem clearError_registerEffect (s : State) : RegisterEffect .clrerr s s.clearError := by
  rcases clearError_cases s with ⟨_, h⟩ | ⟨_, h⟩ <;> rw [h]
  · exact .clrerr rfl s.err (.inr rfl)
  · exact .clrerr rfl .clear (.inl rfl)

section

variable {i : Instr} {s t : State}

theorem unlessFaulted_registerEffect {body : State → State} (h : unlessFaulted body s = .next t)
    (hb : RegisterEffect i s (body s)) : RegisterEffect i s t := by
  rcases unlessFaulted_cases h with ⟨hs, rfl⟩ | ⟨_, rfl⟩
  · exact .unchanged (.inl hs)
  · exact hb

theorem permuteW_registerEffect {n m : Nat} {tab : List Nat}
    (hi : i ∈ workCommands) (h : permuteW n m tab s = .next t) : RegisterEffect i s t :=
  unlessFaulted_registerEffect h (.work hi _)

theorem withSchedule_registerEffect {body : State → State} (hi : .scheduleNotLoaded ∈ raisable i)
    (hb : RegisterEffect i s (body s)) : RegisterEffect i s (withSchedule body s) := by
  rcases withSchedule_cases body s with ⟨_, h⟩ | ⟨hr, h⟩ <;> rw [h]
  · exact hb
  · exact .fault _ hi nofun fun _ => hr

theorem outputUnpadded_registerEffect (hi : isStream i = true)
    (he : ∀ e ∈ raisable .unpad, e ∈ raisable i) (bs : List Byte) : RegisterEffect i s (s.outputUnpadded bs) := by
  rw [State.outputUnpadded]
  rcases unpad8_cases bs with ⟨e, h, hcase⟩ | ⟨n, h⟩ <;> rw [h]
  · have hmem : e ∈ raisable .unpad := by rcases hcase with rfl | rfl | rfl <;> decide
    refine .fault e (he e hmem) ?_ ?_ <;> rintro rfl <;> exact absurd hmem (by decide)
  · exact .output hi _

/-- Every command has one of the effects. -/
theorem exec_registerEffect (h : exec i s = .next t) : RegisterEffect i s t := by
  cases i <;> rw [exec] at h
  case clrerr => cases h; exact clearError_registerEffect s
  case tblchk =>
    rw [execTblchk] at h
    refine unlessFaulted_registerEffect h ?_
    rw [tableCheck_theTables]
    exact .unchanged (.inr rfl)
  case permIp | permFp | permE | permP | permPc1 | permPc2 => exact permuteW_registerEffect (by decide) h
  case subst | join =>
    refine unlessFaulted_registerEffect h ?_
    exact .work (by decide) _
  case ldkeyHex =>
    rw [execLdkeyHex] at h
    refine unlessFaulted_registerEffect h ?_
    split
    · exact .fault _ (by decide) nofun nofun
    · split
      · exact .fault _ (by decide) nofun nofun
      · exact .loadKey (.inl rfl) _
  case ldkeyRaw =>
    rw [execLdkeyRaw] at h
    refine unlessFaulted_registerEffect h ?_
    split
    · exact .fault _ (by decide) nofun nofun
    · exact .loadKey (.inr rfl) _
  case ksched =>
    rw [execKsched] at h
    refine unlessFaulted_registerEffect h ?_
    split
    · exact .schedule rfl ‹_›
    · exact .fault _ (by decide) (fun _ => Bool.eq_false_iff.mpr ‹_›) nofun
  case round k =>
    exact unlessFaulted_registerEffect h (withSchedule_registerEffect List.mem_cons_self (.round k rfl _))
  case split | swap =>
    refine unlessFaulted_registerEffect h ?_
    exact .halves (by decide) _ _
  case encblk | decblk =>
    exact unlessFaulted_registerEffect h (withSchedule_registerEffect (by decide) (.block (by decide) _))
  case pad => exact unlessFaulted_registerEffect h (.output rfl _)
  case unpad =>
    exact unlessFaulted_registerEffect h (outputUnpadded_registerEffect rfl (fun _ he => he) _)
  case encbytes =>
    exact unlessFaulted_registerEffect h (withSchedule_registerEffect (by decide) (.output rfl _))
  case decbytes =>
    refine unlessFaulted_registerEffect h (withSchedule_registerEffect (by decide) ?_)
    split
    · exact .fault _ (by decide) nofun nofun
    · split
      · exact .fault _ (by decide) nofun nofun
      · exact outputUnpadded_registerEffect rfl (by decide) _

/-! ## Who writes each register -/

theorem raisable_ne_clear {e : Err} (h : e ∈ raisable i) : e ≠ .clear := by
  rintro rfl
  cases i <;> simp [raisable] at h

theorem raise_raisable_errf {e : Err} (h : e ∈ raisable i) (s : State) : (s.raise e).errf = true :=
  raise_errf e s (raisable_ne_clear h)

namespace RegisterEffect

theorem w_writer (h : RegisterEffect i s t) (hw : t.w ≠ s.w) :
    i ∈ [.permIp, .permFp, .permE, .permP, .permPc1, .permPc2, .subst, .join, .encblk, .decblk] := by
  cases h with
  | work hi => exact List.mem_append_left [.encblk, .decblk] hi
  | block hi => exact List.mem_append_right workCommands hi
  | _ => exact absurd rfl hw

theorem l_writer (h : RegisterEffect i s t) (hl : t.l ≠ s.l) :
    i ∈ [.split, .swap, .encblk, .decblk] ∨ ∃ k, i = .round k := by
  cases h with
  | round k hi => exact .inr ⟨k, hi⟩
  | halves hi => left; exact List.mem_append_left [.encblk, .decblk] hi
  | block hi => left; exact List.mem_append_right [.split, .swap] hi
  | _ => exact absurd rfl hl

theorem r_writer (h : RegisterEffect i s t) (hr : t.r ≠ s.r) : i ∈ [.split, .swap, .encblk, .decblk] := by
  cases h with
  | halves hi => exact List.mem_append_left [.encblk, .decblk] hi
  | block hi => exact List.mem_append_right [.split, .swap] hi
  | _ => exact absurd rfl hr

theorem key_writer (h : RegisterEffect i s t) (hk : t.key ≠ s.key) : i = .ldkeyHex ∨ i = .ldkeyRaw := by
  cases h with
  | loadKey hi => exact hi
  | _ => exact absurd rfl hk

theorem schedule_writer (h : RegisterEffect i s t) (hs : t.c ≠ s.c ∨ t.d ≠ s.d ∨ t.rk ≠ s.rk) : i = .ksched := by
  cases h with
  | schedule hi => exact hi
  | _ => simp at hs

theorem olen_writer (h : RegisterEffect i s t) (ho : t.olen ≠ s.olen) : isStream i = true ∨ t.errf = true := by
  cases h with
  | output hi => exact .inl hi
  | fault e he => exact .inr (raise_raisable_errf he s)
  | _ => exact absurd rfl ho

theorem err_writer (h : RegisterEffect i s t) (he : t.err ≠ s.err) : i = .clrerr ∨ t.err ∈ raisable i := by
  cases h with
  | clrerr hi => exact .inl hi
  | fault e hmem => exact .inr hmem
  | _ => exact absurd rfl he

/-- What no command writes: the lengths that only the host writes (R30), and the model's own fields. -/
theorem host_fields (h : RegisterEffect i s t) : t.klen = s.klen ∧ t.ilen = s.ilen ∧
    t.bufBlocks = s.bufBlocks ∧ t.pending = s.pending ∧ t.reply = s.reply := by
  cases h <;> exact ⟨rfl, rfl, rfl, rfl, rfl⟩

/-- R27: `KV` is set by a key load, and no command clears it. -/
theorem kv_writer (h : RegisterEffect i s t) (hk : t.kv ≠ s.kv) :
    (i = .ldkeyHex ∨ i = .ldkeyRaw) ∧ t.kv = true := by
  cases h with
  | loadKey hi => exact ⟨hi, rfl⟩
  | _ => exact absurd rfl hk

/-- R27: `RKV` is set by `KSCHED` and cleared by a key load. -/
theorem rkv_writer (h : RegisterEffect i s t) (hr : t.rkv ≠ s.rkv) :
    (i = .ksched ∧ t.rkv = true) ∨ ((i = .ldkeyHex ∨ i = .ldkeyRaw) ∧ t.rkv = false) := by
  cases h with
  | schedule hi => exact .inl ⟨hi, rfl⟩
  | loadKey hi => exact .inr ⟨hi, rfl⟩
  | _ => exact absurd rfl hr

/-- A key load that records no fault has loaded the key: the guard of every other effect names other commands. -/
theorem ldkey_succeeds (h : RegisterEffect i s t) (hi : i = .ldkeyHex ∨ i = .ldkeyRaw) (hs : s.errf = false)
    (ht : t.errf = false) : t.kv = true ∧ t.rkv = false := by
  cases h with
  | loadKey => exact ⟨rfl, rfl⟩
  | fault e he => exact absurd (ht.symm.trans (raise_raisable_errf he s)) nofun
  | unchanged h =>
    rcases h with h | rfl
    · exact absurd (hs.symm.trans h) nofun
    · exact absurd hi (by decide)
  | _ => rcases hi with rfl | rfl <;> simp_all [workCommands, isStream]

/-- A `KSCHED` that records no fault has written the schedule. -/
theorem ksched_succeeds (h : RegisterEffect .ksched s t) (hs : s.errf = false) (ht : t.errf = false) :
    t.rkv = true := by
  cases h with
  | schedule => rfl
  | fault e he => exact absurd (ht.symm.trans (raise_raisable_errf he s)) nofun
  | unchanged h => exact absurd (hs.symm.trans (h.resolve_right nofun)) nofun
  | _ => simp_all [workCommands, isStream]

/-- `CODE` 5 is recorded only when the flag that the command tests is 0. -/
theorem flag_missing (h : RegisterEffect i s t) (hs : s.errf = false) :
    (t.err = .keyNotLoaded → s.kv = false) ∧ (t.err = .scheduleNotLoaded → s.rkv = false) := by
  have hc : s.err = .clear := (errf_eq_false s).mp hs
  cases h with
  | fault e he hk hr => exact ⟨hk, hr⟩
  | clrerr hi e he =>
    have : e = .clear := he.elim id fun h => h.trans hc
    subst this
    exact ⟨nofun, nofun⟩
  | _ => simp [hc]

end RegisterEffect

end

/-- Settles O50, register by register. -/
theorem registersWrittenOnlyByTheirCommands : Obligations.RegistersWrittenOnlyByTheirCommands := by
  intro i s t h
  have he := exec_registerEffect h
  exact ⟨he.w_writer, he.l_writer, he.r_writer, he.key_writer, he.schedule_writer, he.olen_writer, he.err_writer,
    he.host_fields⟩

/-! ## What a transaction can do to the key and its schedule -/

section

variable {i : Instr} {s t : State}

/-- `t` has the key, the key schedule and the flags of `s`. -/
structure KeepsKeyState (s t : State) : Prop where
  key : t.key = s.key
  c : t.c = s.c
  d : t.d = s.d
  rk : t.rk = s.rk
  kv : t.kv = s.kv
  rkv : t.rkv = s.rkv

theorem KeepsKeyState.take (ts : List Transaction) (s : State) : KeepsKeyState s (s.take ts) := by constructor <;> rfl

theorem writeReg_keepsKeyState (v : Block) (s : State) (reg : Reg) : KeepsKeyState s (s.writeReg v reg) := by
  cases reg <;> rw [State.writeReg]
  case klen | ilen => split <;> constructor <;> rfl
  all_goals constructor <;> rfl

theorem hostWrite_keepsKeyState {space : Space} {a n : Nat} {bs : List Byte}
    (h : hostWrite space a n bs s = .next t) : KeepsKeyState s t := by
  rcases hostWrite_cases space a n bs s with ⟨_, e⟩ | ⟨_, _, e⟩ | ⟨_, _, ⟨_, e⟩ | ⟨_, e⟩ | ⟨_, e⟩⟩ <;>
    rw [e] at h <;> cases h <;> constructor <;> rfl

theorem hostRead_keepsKeyState {space : Space} {a n : Nat} (h : hostRead space a n s = .next t) :
    KeepsKeyState s t := by
  rcases hostRead_cases space a n s with ⟨_, e⟩ | ⟨_, e⟩ <;> rw [e] at h <;> cases h
  constructor <;> rfl

/-- A transaction is `Reset`, a write to `CMD`, or leaves the key, its schedule and the flags as they are. -/
theorem perform_keyState_cases {x : Transaction} (h : perform x s = .next t) :
    (x = .reset ∧ t = s.resetCore theTables) ∨ (∃ v, x = .writeReg 0x20 v ∧ writeCommand v s = .next t) ∨
    KeepsKeyState s t := by
  cases x with
  | reset => cases h; exact .inl ⟨rfl, rfl⟩
  | writeReg n v =>
    by_cases hn : n = 0x20
    · subst hn; exact .inr (.inl ⟨v, rfl, h⟩)
    · rw [perform_writeReg hn] at h
      cases h
      exact .inr (.inr (writeReg_keepsKeyState v s _))
  | readReg n => cases h; exact .inr (.inr (by constructor <;> rfl))
  | memWrite space a n bs => exact .inr (.inr (hostWrite_keepsKeyState h))
  | memRead space a n => exact .inr (.inr (hostRead_keepsKeyState h))

/-! ## The schedule invariant -/

namespace ScheduleInv

/-- With `RKV` 0 nothing is promised (R27). -/
theorem of_rkv_false (h : s.rkv = false) : ScheduleInv s := by
  constructor <;> exact fun hr => absurd (h.symm.trans hr) nofun

theorem of_keeps (h : ScheduleInv s) (hk : KeepsKeyState s t) : ScheduleInv t where
  key_valid := by rw [hk.rkv, hk.kv]; exact h.key_valid
  rk_current := by rw [hk.rkv, hk.rk, hk.key]; exact h.rk_current
  halves_current := by rw [hk.rkv, hk.c, hk.d, hk.key]; exact h.halves_current

/-- A key load clears `RKV` with the old schedule, and `KSCHED` writes the schedule of the key it sets `RKV` for (R222). -/
theorem of_registerEffect (h : ScheduleInv s) (he : RegisterEffect i s t) : ScheduleInv t := by
  cases he with
  | loadKey => exact of_rkv_false rfl
  | schedule _ hk => exact ⟨fun _ => hk, fun _ => rfl, fun _ => rfl⟩
  | _ => exact h.of_keeps (by constructor <;> rfl)

theorem of_writeCommand (h : ScheduleInv s) {v : Block} (hv : writeCommand v s = .next t) : ScheduleInv t := by
  rcases writeCommand_cases v s with ⟨i, _, e⟩ | ⟨_, _, e⟩ <;> rw [e] at hv
  · exact h.of_registerEffect (exec_registerEffect hv)
  · rcases unlessFaulted_cases hv with ⟨_, rfl⟩ | ⟨_, rfl⟩
    · exact h
    · exact h.of_keeps (by constructor <;> rfl)

theorem of_perform (h : ScheduleInv s) {x : Transaction} (hx : perform x s = .next t) : ScheduleInv t := by
  rcases perform_keyState_cases hx with ⟨_, rfl⟩ | ⟨v, _, hv⟩ | hk
  · exact of_rkv_false rfl
  · exact h.of_writeCommand hv
  · exact h.of_keeps hk

end ScheduleInv

end

/-- Settles O57, by cases on the transaction that the step performs. -/
theorem stepKeepsTheScheduleInvariant : Obligations.StepKeepsTheScheduleInvariant := by
  intro s t h hstep
  rw [step, performNext] at hstep
  split at hstep
  · cases hstep; exact h
  · exact (h.of_keeps (.take _ s)).of_perform hstep

/-! ## Reset -/

/-- The state after `Reset` differs from `Reset` of it in the counters of the voided buffers only. -/
theorem bufferInv_reset : BufferInv State.reset := { BufferInv.resetCore State.reset with }

/-- Settles O58. -/
theorem invariantsAtReset : Obligations.InvariantsAtReset := ⟨bufferInv_reset, .of_rkv_false rfl⟩

/-! ## `KV`, `RKV` and the commands that test them -/

theorem exec_faulted {i : Instr} {s : State} (hi : i ≠ .clrerr) (hs : s.errf = true) : exec i s = .next s := by
  obtain ⟨body, hbody⟩ := exec_gated i hi
  rw [hbody, unlessFaulted_faulted hs]

theorem exec_ksched_unloaded {s : State} (hs : s.errf = false) (hk : s.kv = false) :
    exec .ksched s = .next (s.raise .keyNotLoaded) := by
  rw [exec, execKsched, unlessFaulted_clear hs, hk]
  rfl

/-- The commands that need the schedule test `RKV` before anything else (R195). -/
theorem exec_needsSchedule {i : Instr} (h : needsSchedule i = true) :
    ∃ body, ∀ s, exec i s = unlessFaulted (withSchedule body) s := by
  cases i
  case round | encblk | decblk | encbytes | decbytes => exact ⟨_, fun _ => rfl⟩
  all_goals exact absurd h nofun

theorem exec_unscheduled {i : Instr} {s : State} (hs : s.errf = false) (hi : needsSchedule i = true)
    (hr : s.rkv = false) : exec i s = .next (s.raise .scheduleNotLoaded) := by
  obtain ⟨body, hbody⟩ := exec_needsSchedule hi
  rw [hbody, unlessFaulted_clear hs, withSchedule_invalid hr]

/-- Settles O49: the bits of `STATUS`, then what each command and each transaction can do to the flags. -/
theorem statusFlagsChangeOnlyAsStated : Obligations.StatusFlagsChangeOnlyAsStated := by
  refine ⟨fun s => ?bits, fun i s t h => ?commands, fun s t h => ?reset, fun s hs => ?ksched,
    fun i s hs hi => ?schedule, fun x s t h hreset hcmd => ?others⟩
  case bits =>
    obtain ⟨hkv, hrkv, herrf⟩ := status_bits s
    exact ⟨hkv, hrkv, herrf ▸ errf_iff_code s, fun j => status_high s⟩
  case commands =>
    have he := exec_registerEffect h
    exact ⟨he.kv_writer, he.rkv_writer, fun hs ht hi => he.ldkey_succeeds hi hs ht,
      fun hs ht hi => (hi ▸ he).ksched_succeeds hs ht⟩
  case reset => cases h; exact ⟨rfl, rfl⟩
  case ksched =>
    exact ⟨fun h => ((exec_registerEffect h).flag_missing hs).1 rfl, exec_ksched_unloaded hs⟩
  case schedule =>
    exact ⟨fun h => ((exec_registerEffect h).flag_missing hs).2 rfl, exec_unscheduled hs hi⟩
  case others =>
    rcases perform_keyState_cases h with ⟨hx, _⟩ | ⟨v, hx, _⟩ | hk
    · exact absurd hx hreset
    · exact absurd hx (hcmd v)
    · exact ⟨hk.kv, hk.rkv⟩

/-- Under `ConfigurationError` no word written to `CMD` does anything: not even `CLRERR` clears `CODE` 4 (R183). -/
theorem writeCommand_configurationError (v : Block) {s : State} (h : s.err = .configurationError) :
    writeCommand v s = .next s := by
  have hs : s.errf = true := (errf_eq_true s).mpr (by rw [h]; nofun)
  rcases writeCommand_cases v s with ⟨i, _, e⟩ | ⟨_, _, e⟩ <;> rw [e]
  · by_cases hi : i = .clrerr
    · subst hi
      rw [exec_clrerr, State.clearError, if_pos ((code_eq_four _).mpr h)]
    · exact exec_faulted hi hs
  · exact unlessFaulted_faulted hs

theorem errByte_eq_four {e : Err} (h : e.byte = 0x04) : e = .configurationError := by
  cases e with
  | configurationError => rfl
  | _ => exact absurd h (by decide)

/-- R33 and R220 for the tables of any implementation. -/
theorem resetErr_byte (tables : Tables) :
    (resetErr tables).byte = if tablesValid tables = true then 0x00 else 0x04 := by
  rw [resetErr]
  split <;> rfl

/-- Settles O55: the state after the transaction and `State.reset` agree in every register and hold no byte. -/
theorem resetGivesTheResetValues : Obligations.ResetGivesTheResetValues := by
  refine ⟨fun s => ⟨s.resetCore theTables, rfl, rfl, rfl, fun u hu => ?_⟩, fun tables s => ?_, fun v s h => ?_⟩
  · have herr : u.err = .clear := by rcases hu with rfl | rfl <;> exact resetErr_theTables
    have hcells : ∀ space, (u.buffer space).cells = [] := by
      rcases hu with rfl | rfl <;> rintro (_ | _ | _) <;> rfl
    have hfields : u.w = 0 ∧ u.l = 0 ∧ u.r = 0 ∧ u.key = 0 ∧ u.c = 0 ∧ u.d = 0 ∧ u.rk = Vector.replicate 16 0 ∧
        u.kv = false ∧ u.rkv = false ∧ u.klen = 0 ∧ u.ilen = 0 ∧ u.olen = 0 := by
      rcases hu with rfl | rfl <;> exact ⟨rfl, rfl, rfl, rfl, rfl, rfl, rfl, rfl, rfl, rfl, rfl, rfl⟩
    obtain ⟨hw, hl, hr, hkey, hc, hd, hrk, hkv, hrkv, hklen, hilen, holen⟩ := hfields
    exact ⟨hw, hl, hr, hkey, hc, hd, fun i => by simp [hrk], hkv, hrkv, hklen, hilen, holen, by rw [herr]; rfl,
      fun space a => by rw [hcells]; rfl, exec_ksched_unloaded ((errf_eq_false u).mpr herr) hkv⟩
  · rw [State.resetCore_err, resetErr_byte]
  · exact writeCommand_configurationError v (errByte_eq_four h)

/-! ## Narrow operands -/

/-- A narrow operand is the low bits of `W` (R21), so `W`s that agree there give the same one. -/
theorem operand_congr {n : Nat} {s : State} {w : Block} (h : ∀ j, j < n → w.getLsbD j = s.w.getLsbD j) :
    ({ s with w := w } : State).operand n = s.operand n := by
  refine BitVec.eq_of_getLsbD_eq fun j hj => ?_
  simp only [State.operand, BitVec.getLsbD_setWidth, h j hj]

/-- A result is zero-extended into `W` (R21). -/
theorem setResult_high {m j : Nat} (v : BitVec m) (s : State) (h : m ≤ j) : (s.setResult v).w.getLsbD j = false := by
  rw [State.setResult_w, BitVec.getLsbD_setWidth, BitVec.getLsbD_of_ge v j h, Bool.and_false]

/-- A command that replaces `W` by a function of its low `n` bits reads no other bit of `W`. -/
theorem unlessFaulted_operand {n m : Nat} (f : BitVec n → BitVec m) {s : State} {w : Block} (hs : s.errf = false)
    (hw : ∀ j, j < n → w.getLsbD j = s.w.getLsbD j) :
    ∃ t : State, unlessFaulted (fun s => s.setResult (f (s.operand n))) s = .next t ∧
      unlessFaulted (fun s => s.setResult (f (s.operand n))) { s with w := w } = .next t ∧
      ∀ j, m ≤ j → t.w.getLsbD j = false := by
  have hs' : ({ s with w := w } : State).errf = false := hs
  refine ⟨_, unlessFaulted_clear hs, ?_, fun j => setResult_high _ s⟩
  rw [unlessFaulted_clear hs', operand_congr hw]
  rfl

/-- Settles O20, command by command. -/
theorem narrowOperandsIgnoreHighBits : Obligations.NarrowOperandsIgnoreHighBits := by
  intro x hx s w hs hw
  simp only [List.mem_cons, List.not_mem_nil, or_false] at hx
  rcases hx with rfl | rfl | rfl | rfl
  · exact unlessFaulted_operand (permute 48 tableE) hs hw
  · exact unlessFaulted_operand (permute 32 tableP) hs hw
  · exact unlessFaulted_operand (permute 48 tablePc2) hs hw
  · exact unlessFaulted_operand substitute hs hw

end Sys2Proof

/-! # Host buffer accesses and the frame of every command over memory

Commands never stop, so a step stops only where the model refuses a buffer access; a defined access writes or returns its bytes. What a
command does to `OBUF` splits in two: it keeps the buffer, or it voids it and the bytes put out are all that it then holds. -/

namespace Sys2Proof

open Machine

/-! ## A step stops only on an undefined buffer access -/

/-- No command stops, in any state (R181). -/
theorem exec_next (i : Instr) (s : State) : ∃ t, exec i s = .next t := by
  by_cases hi : i = .clrerr
  · exact ⟨s.clearError, hi ▸ exec_clrerr s⟩
  · obtain ⟨body, hbody⟩ := exec_gated i hi
    exact ⟨_, hbody s⟩

theorem writeCommand_next (v : Block) (s : State) : ∃ t, writeCommand v s = .next t := by
  rcases writeCommand_cases v s with ⟨i, _, h⟩ | ⟨_, _, h⟩ <;> rw [h]
  · exact exec_next i s
  · exact ⟨_, rfl⟩

/-- A host write is refused exactly when R53 does not define it. -/
theorem hostWrite_refused_iff (space : Space) (a n : Nat) (bs : List Byte) (s : State) :
    (∃ r, hostWrite space a n bs s = .refused r) ↔
      space = .obuf ∨ bs.length ≠ n ∨ s.capacity space < a + n := by
  rcases hostWrite_cases space a n bs s with ⟨hn, e⟩ | ⟨_, hcap, e⟩ | ⟨hn, hcap, ⟨rfl, e⟩ | ⟨rfl, e⟩ | ⟨rfl, e⟩⟩ <;> rw [e]
  · exact iff_of_true ⟨_, rfl⟩ (.inr (.inl hn))
  · exact iff_of_true ⟨_, rfl⟩ (.inr (.inr hcap))
  · exact iff_of_false nofun (by simp [hn, hcap])
  · exact iff_of_false nofun (by simp [hn, hcap])
  · exact iff_of_true ⟨_, rfl⟩ (.inl rfl)

/-- A host read is refused exactly when it reaches beyond the capacity (R53). -/
theorem hostRead_refused_iff (space : Space) (a n : Nat) (s : State) :
    (∃ r, hostRead space a n s = .refused r) ↔ s.capacity space < a + n := by
  rcases hostRead_cases space a n s with ⟨hcap, e⟩ | ⟨hcap, e⟩ <;> rw [e]
  · exact iff_of_true ⟨_, rfl⟩ hcap
  · exact iff_of_false nofun (Nat.not_lt.mpr hcap)

/-- Only the two buffer accesses are ever refused. -/
theorem perform_refused {x : Transaction} {s : State} {r : Refusal} (h : perform x s = .refused r) :
    (∃ space a n bs, x = .memWrite space a n bs ∧ (space = .obuf ∨ bs.length ≠ n ∨ s.capacity space < a + n)) ∨
    ∃ space a n, x = .memRead space a n ∧ s.capacity space < a + n := by
  cases x with
  | reset | readReg => cases h
  | writeReg n v =>
    rw [perform] at h
    split at h
    · obtain ⟨t, ht⟩ := writeCommand_next v s
      cases ht.symm.trans h
    · cases h
  | memWrite space a n bs => exact .inl ⟨space, a, n, bs, rfl, (hostWrite_refused_iff space a n bs s).mp ⟨r, h⟩⟩
  | memRead space a n => exact .inr ⟨space, a, n, rfl, (hostRead_refused_iff space a n s).mp ⟨r, h⟩⟩

@[simp] theorem capacity_take (ts : List Transaction) (s : State) (space : Space) :
    (s.take ts).capacity space = s.capacity space := by cases space <;> rfl

/-- Settles O60: the type of faults is empty, and a step refuses what the transaction it performs refuses. -/
theorem onlyUndefinedBufferAccessStops : Obligations.OnlyUndefinedBufferAccessStops := by
  refine ⟨fun _ r => (nomatch r), fun s r h => ?_⟩
  rw [step, performNext] at h
  split at h
  · cases h
  · rename_i x rest hp
    rcases perform_refused h with ⟨space, a, n, bs, rfl, hbad⟩ | ⟨space, a, n, rfl, hbad⟩ <;> rw [capacity_take] at hbad
    · exact .inl ⟨space, a, n, bs, rest, hp, hbad⟩
    · exact .inr ⟨space, a, n, rest, hp, hbad⟩

/-! ## What a defined buffer access does -/

/-- A defined host write replaces the buffer of its space and nothing else (R53). -/
theorem hostWrite_defined {space : Space} {a n : Nat} {bs : List Byte} {s : State} (hspace : space ≠ .obuf)
    (hn : bs.length = n) (hcap : a + n ≤ s.capacity space) :
    ∃ t : State, hostWrite space a n bs s = .next t ∧ t = { s with kbuf := t.kbuf, ibuf := t.ibuf } ∧
      t.buffer space = bufferWriteBytes (s.buffer space) a bs ∧ ∀ other, other ≠ space → t.buffer other = s.buffer other := by
  rcases hostWrite_cases space a n bs s with ⟨h, _⟩ | ⟨_, h, _⟩ | ⟨_, _, ⟨rfl, e⟩ | ⟨rfl, e⟩ | ⟨h, _⟩⟩
  · exact absurd hn h
  · omega
  · refine ⟨_, e, rfl, rfl, fun other hother => ?_⟩
    cases other with
    | kbuf => exact absurd rfl hother
    | ibuf | obuf => rfl
  · refine ⟨_, e, rfl, rfl, fun other hother => ?_⟩
    cases other with
    | ibuf => exact absurd rfl hother
    | kbuf | obuf => rfl
  · exact absurd h hspace

/-- Settles O54: the law of reading a buffer after a write, and the two refusal conditions. -/
theorem hostAccessReadsAndWritesBytes : Obligations.HostAccessReadsAndWritesBytes := by
  refine ⟨fun space a n bs s hspace hn hcap => ?write, fun space a n bs s => (hostWrite_refused_iff space a n bs s).mpr,
    fun space a n s hcap => ?read, fun space a n s hcap => ?readRefused⟩
  case write =>
    obtain ⟨t, ht, hframe, hbuf, hother⟩ := hostWrite_defined hspace hn hcap
    refine ⟨t, ht, hframe, fun j hj => ?_, fun b hb => ?_, hother⟩ <;> rw [hbuf, bufferRead_bufferWriteBytes]
    · rw [if_pos (by omega), Nat.add_sub_cancel_left]
    · rw [if_neg (by omega)]
  case read =>
    rcases hostRead_cases space a n s with ⟨h, _⟩ | ⟨_, e⟩
    · omega
    · exact e
  case readRefused =>
    rcases hostRead_cases space a n s with ⟨_, e⟩ | ⟨h, _⟩
    · exact e
    · omega

/-! ## What a command does to the buffers -/

theorem clearError_obuf (s : State) : s.clearError.obuf = s.obuf := by
  rcases clearError_cases s with ⟨_, h⟩ | ⟨_, h⟩ <;> rw [h]

/-- A command leaves `OBUF` as it is, or leaves in it the bytes it put out and no others (none at fault entry); their number fits
the 32 bits of `OLEN` (R5, R50, R51). -/
theorem CommandEffect.obuf_cases {s t : State} (h : CommandEffect s t) (hlen : s.ilen.toNat ≤ s.bufMax) :
    t.obuf = s.obuf ∨ ∀ a, memoryRead t.obuf.cells a ≠ none ↔ a < t.olen.toNat := by
  cases h with
  | keeps hk => exact .inl hk.obuf
  | clearError => exact .inl (clearError_obuf s)
  | raise e => exact .inr fun a => by simp [memoryRead]
  | output bs _ hbs =>
    obtain ⟨-, hmax, -⟩ := bufMax_legal s
    refine .inr fun a => ?_
    rw [memoryRead_output, State.output_olen, BitVec.toNat_ofNat, Nat.mod_eq_of_lt (by omega)]
    simp

namespace RegisterEffect

variable {i : Instr} {s t : State}

/-- No command writes `KBUF` or `IBUF` (R50). -/
theorem input_buffers (h : RegisterEffect i s t) : t.kbuf = s.kbuf ∧ t.ibuf = s.ibuf := by
  cases h <;> exact ⟨rfl, rfl⟩

theorem obuf_kept (h : RegisterEffect i s t) (hi : isStream i = false) (ht : t.errf = false) : t.obuf = s.obuf := by
  cases h with
  | fault e he => exact absurd (ht.symm.trans (raise_raisable_errf he s)) nofun
  | output hs => exact absurd (hi.symm.trans hs) nofun
  | _ => rfl

/-- With no fault recorded a stream command records one of its faults or puts out its stream (R181, R195). -/
theorem stream_cases (h : RegisterEffect i s t) (hs : s.errf = false) (hi : isStream i = true) :
    (∃ e ∈ raisable i, t = s.raise e) ∨ ∃ bs, t = s.output bs := by
  cases i
  case pad | unpad | encbytes | decbytes =>
    cases h with
    | fault e he => exact .inl ⟨e, he, rfl⟩
    | output _ bs => exact .inr ⟨bs, rfl⟩
    | unchanged hu => simp [hs] at hu
    | clrerr hw | work hw | loadKey hw | schedule hw | round _ hw | halves hw | block hw => simp [workCommands] at hw
  all_goals exact absurd hi nofun

/-- A stream command that runs, and a command that records a fault, voids `OBUF` once (R51, R193). -/
theorem obuf_voided (h : RegisterEffect i s t) (hs : s.errf = false) (hi : isStream i = true ∨ t.errf = true) :
    t.obuf.voids = s.obuf.voids + 1 := by
  rcases hi with hi | ht
  · rcases h.stream_cases hs hi with ⟨e, _, rfl⟩ | ⟨bs, rfl⟩ <;> rfl
  · cases h with
    | fault | output => rfl
    | clrerr _ e he =>
      have hclear : e = .clear := he.elim id fun h => h.trans ((errf_eq_false s).mp hs)
      exact absurd hclear ((errf_eq_true _).mp ht)
    | _ => exact absurd (hs.symm.trans ht) nofun

end RegisterEffect

/-- Settles O51: what a command keeps, by cases on what it writes; if it voids `OBUF`, only the bytes put out are left there. -/
theorem commandsKeepMemory : Obligations.CommandsKeepMemory := by
  intro i s t hlen h
  have he := exec_registerEffect h
  obtain ⟨hkbuf, hibuf⟩ := he.input_buffers
  refine ⟨fun a => by rw [hkbuf], fun a => by rw [hibuf], fun hi ht a => ?kept, fun hs hi => ?voided⟩
  case kept =>
    suffices t.obuf = s.obuf by rw [this]
    rcases exec_cases h with ⟨_, rfl⟩ | ⟨_, rfl⟩ | ⟨hs, _⟩
    · exact clearError_obuf s
    · rfl
    · refine he.obuf_kept hi (ht.elim (fun herr => ?_) id)
      rw [State.errf, herr]; exact hs
  case voided =>
    rcases (exec_effect h).obuf_cases hlen with hkept | hholds
    · have := he.obuf_voided hs hi
      rw [hkept] at this
      omega
    · exact hholds

end Sys2Proof

/-! # The encoding

Decoding is reading back the encoded word (`decode_eq_ok_iff`), and its failures are R74's list (`wellFormed_eq_false_iff`); both are
said of the low byte first. -/

namespace Sys2Proof

open Machine

/-! ## The decoder reads exactly the encoded words -/

/-- The word of `ROUND k` is its two fields put together again. -/
theorem encode_round_of_fields {b : Byte} (h : b.extractLsb' 4 4 = 0x4) :
    encode (.round ⟨(b.extractLsb' 0 4).toNat, (b.extractLsb' 0 4).isLt⟩) = b := by
  rw [encode, Instr.op, Instr.sel, BitVec.ofNat_toNat, BitVec.setWidth_eq, ← h,
    BitVec.extractLsb'_append_extractLsb'_eq_extractLsb' (by rfl), BitVec.extractLsb'_eq_self]

/-- A byte that decodes is the word of the command read from it: row by row of R72. -/
theorem encode_of_decodeByte {b : Byte} {i : Instr} (h : decodeByte b = .ok i) : encode i = b := by
  rw [decodeByte] at h
  split at h
  · cases h
    exact encode_round_of_fields ‹_›
  · split at h <;> cases h <;> exact (BitVec.eq_of_toNat_eq ‹b.toNat = _›).symm

theorem decodeByte_encode (i : Instr) : decodeByte (encode i) = .ok i := by
  cases i with
  | round k => revert k; decide
  | _ => rfl

theorem decodeByte_eq_ok_iff {b : Byte} {i : Instr} : decodeByte b = .ok i ↔ b = encode i :=
  ⟨fun h => (encode_of_decodeByte h).symm, fun h => h ▸ decodeByte_encode i⟩

/-- R73 step (1): bits 63 to 8 are zero exactly when the value fits a byte. -/
theorem upperBits_eq_zero_iff (v : Block) : v.extractLsb' 8 56 = 0 ↔ v.toNat < 256 := by
  have hv := v.isLt
  rw [← BitVec.toNat_inj, BitVec.extractLsb'_toNat, Nat.shiftRight_eq_div_pow]
  change _ = 0 ↔ _
  omega

/-- A value that fits a byte is its low byte, zero-extended (R29). -/
theorem zext64_setWidth_of_lt {v : Block} (h : v.toNat < 256) : zext64 (v.setWidth 8) = v :=
  BitVec.eq_of_toNat_eq (by simp only [BitVec.toNat_setWidth]; omega)

theorem setWidth_zext64 (b : Byte) : (zext64 b).setWidth 8 = b := BitVec.setWidth_setWidth_of_le b (by decide)

theorem zext64_lt (b : Byte) : (zext64 b).toNat < 256 := by
  rw [BitVec.toNat_setWidth_of_le (by decide)]
  exact b.isLt

theorem decode_of_lt {v : Block} (h : v.toNat < 256) : decode v = decodeByte (v.setWidth 8) :=
  if_pos ((upperBits_eq_zero_iff v).mpr h)

theorem decode_of_ge {v : Block} (h : 256 ≤ v.toNat) : decode v = .error .upperBitsSet :=
  if_neg fun h0 => absurd ((upperBits_eq_zero_iff v).mp h0) (by omega)

/-- Decoding a word written to `CMD` gives back the command (R75). -/
@[simp] theorem decode_commandWord (i : Instr) : decode (commandWord i) = .ok i := by
  rw [commandWord, decode_of_lt (zext64_lt _), setWidth_zext64, decodeByte_encode]

theorem commandWord_of_decode {v : Block} {i : Instr} (h : decode v = .ok i) : commandWord i = v := by
  by_cases hv : v.toNat < 256
  · rw [decode_of_lt hv] at h
    rw [commandWord, encode_of_decodeByte h, zext64_setWidth_of_lt hv]
  · rw [decode_of_ge (Nat.le_of_not_lt hv)] at h
    cases h

/-- Settles O1: a round trip of the low byte in each direction, under the test of the upper bits. -/
theorem decodeReadsExactlyTheEncodedWord : Obligations.DecodeReadsExactlyTheEncodedWord :=
  fun _ i => ⟨fun h => (commandWord_of_decode h).symm, fun h => h ▸ decode_commandWord i⟩

/-- Settles O3: each value is the word of its command (R72). -/
theorem writtenOutWordsDecode : Obligations.WrittenOutWordsDecode := by
  refine ⟨?_, ?_, ?_, ?_, ?_, ?_, ?_, ?_, ?_⟩ <;> exact (decodeReadsExactlyTheEncodedWord _ _).mpr rfl

/-! ## The illegal words -/

/-- R74's list is what R72's table leaves out of the 256 bytes. -/
theorem reserved_iff (b : Byte) : CommandWord.reserved b = true ↔ decodeByte b = .error .reservedWord := by
  revert b; decide +kernel

/-- The decoder of a byte has one failure. -/
theorem decodeByte_eq_error_iff (b : Byte) : (∃ e, decodeByte b = .error e) ↔ CommandWord.reserved b = true := by
  rw [reserved_iff]
  refine ⟨fun ⟨e, he⟩ => ?_, fun h => ⟨_, h⟩⟩
  cases e with
  | reservedWord => exact he
  | upperBitsSet =>
    rw [decodeByte] at he
    split at he
    · cases he
    · split at he <;> cases he

theorem wellFormed_of_lt {v : Block} (h : v.toNat < 256) :
    CommandWord.wellFormed v = !CommandWord.reserved (v.setWidth 8) := by
  rw [CommandWord.wellFormed, CommandWord.upperBitsClear, (upperBits_eq_zero_iff v).mpr h]
  rfl

theorem wellFormed_of_ge {v : Block} (h : 256 ≤ v.toNat) : CommandWord.wellFormed v = false := by
  have hne : v.extractLsb' 8 56 ≠ 0 := fun h0 => absurd ((upperBits_eq_zero_iff v).mp h0) (by omega)
  rw [CommandWord.wellFormed, CommandWord.upperBitsClear, beq_false_of_ne hne, Bool.false_and]

/-- R73 and R74 agree: a value is on the list of illegal words exactly when it does not decode. -/
theorem wellFormed_eq_false_iff (v : Block) : CommandWord.wellFormed v = false ↔ ∃ e, decode v = .error e := by
  by_cases hv : v.toNat < 256
  · rw [wellFormed_of_lt hv, decode_of_lt hv, decodeByte_eq_error_iff, Bool.not_eq_false']
  · have hge := Nat.le_of_not_lt hv
    exact iff_of_true (wellFormed_of_ge hge) ⟨_, decode_of_ge hge⟩

theorem count_illegal_words :
    ((List.range 256).filter fun n => !CommandWord.wellFormed (BitVec.ofNat 64 n)).length = 219 := by decide +kernel

theorem writeCommand_illegal {v : Block} {e : DecodeError} (h : decode v = .error e) (s : State) :
    writeCommand v s = illegalWord s := by rw [writeCommand, h]

@[simp] theorem writeCommand_commandWord (i : Instr) (s : State) : writeCommand (commandWord i) s = exec i s := by
  rw [writeCommand, decode_commandWord]

/-- Settles O2: an illegal word does not decode, and `illegalWord` is gated like a command. -/
theorem illegalWordsFault : Obligations.IllegalWordsFault := by
  refine ⟨wellFormed_eq_false_iff, count_illegal_words, fun v => wellFormed_of_ge, fun v s hv => ⟨rfl, ?_⟩⟩
  obtain ⟨e, he⟩ := (wellFormed_eq_false_iff v).mp hv
  rw [writeCommand_illegal he]
  exact ⟨unlessFaulted_clear, unlessFaulted_faulted⟩

/-! ## A step runs the decoded command -/

theorem step_of_pending {s : State} {t : Transaction} {rest : List Transaction} (h : s.pending = t :: rest) :
    step s = perform t (s.take rest) := by rw [step, performNext, h]

theorem step_of_pending_nil {s : State} (h : s.pending = []) : step s = .next s := by rw [step, performNext, h]

/-- Settles O4: a step performs the transaction taken off the list, and a write to `CMD` is `writeCommand`. -/
theorem stepRunsTheDecodedCommand : Obligations.StepRunsTheDecodedCommand := by
  refine ⟨fun s => step_of_pending_nil, fun s t rest => step_of_pending, fun v s => rfl, fun s v rest hp => ?_⟩
  have hstep : step s = writeCommand v (s.take rest) := step_of_pending hp
  refine ⟨fun i hi => ?_, fun e he => ?_⟩
  · rw [hstep, writeCommand, hi]; rfl
  · rw [hstep, writeCommand_illegal he]
    exact ⟨unlessFaulted_clear (s := s.take rest), unlessFaulted_faulted (s := s.take rest)⟩

end Sys2Proof

/-! # The byte-level contract

The cipher is inverted by its reversed round keys (`desDec_desEnc`), so decrypting an encrypted stream gives the padded plaintext
(`decryptStream_encryptStream`). The host's lines leave the schedule and the payload ready under a valid key text
(`streamLines_valid`), and a recorded fault under any other (`streamLines_invalid`); the contract follows from the stream command
executed there and from the reading of its answer. -/

namespace Sys2Proof

open Machine

/-! ## Permutations -/

/-- R90: output bit `i`, from the most significant end, is source bit `T[i] - 1`. -/
theorem permute_getMsbD {n m : Nat} {t : List Nat} (ht : t.length = m) (x : BitVec n) {i : Nat} (hi : i < m) :
    (permute m t x).getMsbD i = x.getMsbD (t.getD i 0 - 1) := by
  subst ht
  simp [permute, BitVec.getMsbD_setWidth, BitVec.getMsbD_ofBoolListBE, hi]

/-- Permuting by a table and then by its inverse changes nothing. -/
theorem permute_permute_cancel {n : Nat} {t u : List Nat} (ht : t.length = n) (hu : u.length = n)
    (h : ∀ i < n, u.getD i 0 - 1 < n ∧ t.getD (u.getD i 0 - 1) 0 - 1 = i) (x : BitVec n) :
    permute n u (permute n t x) = x := by
  refine BitVec.eq_of_getMsbD_eq fun i hi => ?_
  obtain ⟨hlt, hinv⟩ := h i hi
  rw [permute_getMsbD hu _ hi, permute_getMsbD ht _ hlt, hinv]

/-- R105. -/
@[simp] theorem permute_fp_ip (x : Block) : permute 64 tableFp (permute 64 tableIp x) = x :=
  permute_permute_cancel (t := tableIp) (u := tableFp) rfl rfl (by decide) x

/-- R105. -/
@[simp] theorem permute_ip_fp (x : Block) : permute 64 tableIp (permute 64 tableFp x) = x :=
  permute_permute_cancel (t := tableFp) (u := tableIp) rfl rfl (by decide) x

/-! ## The block transform is inverted by the reversed round keys -/

/-- One round with its swap (R145). -/
def swapRound (h : Half × Half) (k : RoundKey) : Half × Half := (h.2, h.1 ^^^ roundF h.2 k)

/-- R145's equivalent form: a swap after every round, undone at the end. -/
theorem feistelRounds_eq_foldl {ks : List RoundKey} (hks : ks ≠ []) (h : Half × Half) :
    feistelRounds ks h = (ks.foldl swapRound h).swap := by
  induction ks generalizing h with
  | nil => exact absurd rfl hks
  | cons k ks ih =>
    cases ks with
    | nil => rfl
    | cons k' ks => exact ih (List.cons_ne_nil k' ks) _

/-- The swapped halves pass a round backwards. -/
theorem swapRound_swap_swapRound (h : Half × Half) (k : RoundKey) : swapRound (swapRound h k).swap k = h.swap := by
  simp [swapRound, Prod.swap]

/-- The swapped halves pass all rounds backwards when the keys are reversed. -/
theorem foldl_swapRound_reverse (ks : List RoundKey) (h : Half × Half) :
    ks.reverse.foldl swapRound (ks.foldl swapRound h).swap = h.swap := by
  induction ks generalizing h with
  | nil => rfl
  | cons k ks ih =>
    rw [List.reverse_cons, List.foldl_append, List.foldl_cons (l := ks), ih, List.foldl_cons, List.foldl_nil,
      swapRound_swap_swapRound]

theorem feistelRounds_reverse {ks : List RoundKey} (hks : ks ≠ []) (h : Half × Half) :
    feistelRounds ks.reverse (feistelRounds ks h) = h := by
  rw [feistelRounds_eq_foldl hks, feistelRounds_eq_foldl (by simpa using hks), foldl_swapRound_reverse, Prod.swap_swap]

/-- The two halves of a block put together again. -/
theorem halves_append (y : Block) : (y.extractLsb' 32 32 ++ y.extractLsb' 0 32 : Block) = y := by
  rw [BitVec.extractLsb'_append_extractLsb'_eq_extractLsb' (by rfl), BitVec.extractLsb'_eq_self]

theorem append_halves (l r : Half) :
    ((l ++ r : Block).extractLsb' 32 32, (l ++ r : Block).extractLsb' 0 32) = (l, r) := by
  rw [BitVec.extractLsb'_append_eq_left, BitVec.extractLsb'_append_eq_right]

/-- R150 for any round keys. -/
theorem feistel16_reverse {ks : List RoundKey} (hks : ks ≠ []) (x : Block) :
    (feistel16 (feistel16 x ks).result ks.reverse).result = x := by
  simp only [feistel16, permute_ip_fp, append_halves, Prod.mk.eta, feistelRounds_reverse hks, halves_append, permute_fp_ip]

theorem forwardKeys_ne_nil (rk : Vector RoundKey 16) : forwardKeys rk ≠ [] :=
  List.ne_nil_of_length_pos (by simp [forwardKeys])

/-- R150: decryption inverts encryption. -/
@[simp] theorem desDec_desEnc (rk : Vector RoundKey 16) (x : Block) : desDec rk (desEnc rk x) = x :=
  feistel16_reverse (forwardKeys_ne_nil rk) x

/-! ## Blocks and bytes -/

@[simp] theorem bytes8_length (v : Block) : (bytes8 v).length = 8 := by simp [bytes8]

/-- The low byte after a byte is shifted in is that byte. -/
theorem extractLsb'_shift_in_low (v : Block) (b : Byte) : (v <<< 8 ||| zext64 b).extractLsb' 0 8 = b := by
  refine BitVec.eq_of_getLsbD_eq fun j hj => ?_
  simp [hj, show j < 64 by omega]

/-- The bytes above are those that stood one byte lower before. -/
theorem extractLsb'_shift_in_high (v : Block) (b : Byte) {k : Nat} (hk : k + 16 ≤ 64) :
    (v <<< 8 ||| zext64 b).extractLsb' (k + 8) 8 = v.extractLsb' k 8 := by
  refine BitVec.eq_of_getLsbD_eq fun j hj => ?_
  simp [hj, show k + 8 + j < 64 by omega, show ¬ k + 8 + j < 8 by omega, show k + 8 + j - 8 = k + j by omega,
    BitVec.getLsbD_of_ge b (k + 8 + j) (by omega), BitVec.getLsbD_eq_getElem (show k + j < 64 by omega)]

theorem be64_append (bs : List Byte) (b : Byte) : be64 (bs ++ [b]) = be64 bs <<< 8 ||| zext64 b := by
  simp [be64]

/-- Byte `j` of at most eight bytes stands that many places above the last (R10). -/
theorem extractLsb'_be64 {bs : List Byte} (hbs : bs.length ≤ 8) {j : Nat} (hj : j < bs.length) :
    (be64 bs).extractLsb' (8 * (bs.length - 1 - j)) 8 = bs[j] := by
  induction bs using List.reverseRecOn with
  | nil => exact absurd hj (Nat.not_lt_zero j)
  | append_singleton bs b ih =>
    rw [List.length_append, List.length_singleton] at hbs
    rw [be64_append]
    by_cases hlast : j < bs.length
    · have hpos : 8 * ((bs ++ [b]).length - 1 - j) = 8 * (bs.length - 1 - j) + 8 := by
        rw [List.length_append, List.length_singleton]; omega
      rw [hpos, extractLsb'_shift_in_high _ _ (by omega), ih (by omega) hlast, List.getElem_append_left hlast]
    · have hj' : j = bs.length := by
        rw [List.length_append, List.length_singleton] at hj; omega
      subst hj'
      simpa using extractLsb'_shift_in_low (be64 bs) b

/-- R10: `bytes8` inverts `be64`. -/
theorem bytes8_be64 {bs : List Byte} (h : bs.length = 8) : bytes8 (be64 bs) = bs := by
  refine List.ext_getElem (by rw [bytes8_length, h]) fun j hj hj' => ?_
  have hpos : 56 - 8 * j = 8 * (bs.length - 1 - j) := by omega
  rw [← extractLsb'_be64 h.le hj', ← hpos]
  simp [bytes8]

/-- Bit `j` of a block stands in byte `7 - j / 8` (R10). -/
theorem bytes8_getLsbD (v : Block) {j : Nat} (hj : j < 64) :
    ((bytes8 v).getD (7 - j / 8) 0).getLsbD (j % 8) = v.getLsbD j := by
  have hbyte : (bytes8 v).getD (7 - j / 8) 0 = v.extractLsb' (56 - 8 * (7 - j / 8)) 8 := by
    simp [bytes8, List.getD_eq_getElem?_getD, show 7 - j / 8 < 8 by omega]
  rw [hbyte, BitVec.getLsbD_extractLsb', show 56 - 8 * (7 - j / 8) + j % 8 = j by omega]
  simp [Nat.mod_lt]

/-- R10: `be64` inverts `bytes8`, whose bytes hold every bit of the block. -/
@[simp] theorem be64_bytes8 (v : Block) : be64 (bytes8 v) = v := by
  have hbytes : bytes8 (be64 (bytes8 v)) = bytes8 v := bytes8_be64 (bytes8_length v)
  refine BitVec.eq_of_getLsbD_eq fun j hj => ?_
  rw [← bytes8_getLsbD _ hj, hbytes, bytes8_getLsbD v hj]

/-! ## Streams -/

/-- Mapping the chunks back restores the stream (R54, R55). -/
theorem mapChunks_cancel {f g : Block → Block} (hfg : ∀ x, f (g x) = x) {m : Nat} {bs : List Byte}
    (h : bs.length = 8 * m) : mapChunks f m (mapChunks g m bs) = bs := by
  induction m generalizing bs with
  | zero => exact (List.eq_nil_of_length_eq_zero h).symm
  | succ m ih =>
    have htake : (bs.take 8).length = 8 := by rw [List.length_take]; omega
    rw [mapChunks, mapChunks, List.take_left' (bytes8_length _), List.drop_left' (bytes8_length _), be64_bytes8, hfg,
      bytes8_be64 htake, ih (by rw [List.length_drop]; omega), List.take_append_drop]

/-- R160. -/
theorem pad8_length (bs : List Byte) : (pad8 bs).length = 8 * (bs.length / 8 + 1) := by
  simp only [pad8, padCount, List.length_append, List.length_replicate]
  omega

/-- R168. -/
@[simp] theorem encryptStream_length (rk : Vector RoundKey 16) (bs : List Byte) :
    (encryptStream rk bs).length = 8 * (bs.length / 8 + 1) := by
  rw [encryptStream, mapChunks_length, pad8_length]
  omega

/-- Decrypting the chunks of a ciphertext gives the padded plaintext (R167). -/
theorem decryptStream_encryptStream (rk : Vector RoundKey 16) (bs : List Byte) :
    decryptStream rk (encryptStream rk bs) = pad8 bs := by
  have hm : (pad8 bs).length / 8 = bs.length / 8 + 1 := by rw [pad8_length]; omega
  rw [decryptStream, encryptStream_length, encryptStream, hm, Nat.mul_div_cancel_left _ (by decide)]
  exact mapChunks_cancel (desDec_desEnc rk) (pad8_length bs)

/-- The last byte of a padded stream is its count (R160). -/
theorem pad8_last (bs : List Byte) : ((pad8 bs).getD ((pad8 bs).length - 1) 0).toNat = padCount bs.length := by
  have hk : 1 ≤ padCount bs.length ∧ padCount bs.length ≤ 8 := by rw [padCount]; omega
  have hlast : (pad8 bs).getD ((pad8 bs).length - 1) 0 = BitVec.ofNat 8 (padCount bs.length) := by
    rw [pad8, List.length_append, List.length_replicate, List.getD_append_right _ _ _ _ (by omega)]
    exact List.getD_replicate _ (by omega)
  rw [hlast, BitVec.toNat_ofNat, Nat.mod_eq_of_lt (by omega)]

/-- R169: unpadding undoes padding. -/
theorem unpad8_pad8 (bs : List Byte) : unpad8 (pad8 bs) = .ok bs := by
  have hlen := pad8_length bs
  have hk : 1 ≤ padCount bs.length ∧ padCount bs.length ≤ 8 := by rw [padCount]; omega
  have htake : (pad8 bs).length - padCount bs.length = bs.length := by
    rw [pad8, List.length_append, List.length_replicate, Nat.add_sub_cancel]
  rw [unpad8, if_neg (by omega), if_neg (by omega)]
  simp only [pad8_last, htake]
  rw [if_neg (by omega), pad8, List.take_left]

/-! ## Hex texts -/

/-- R121: a text has digits exactly when each of its bytes is a hex digit. -/
theorem hexDigits_eq_none_iff (bs : List Byte) : hexDigits bs = none ↔ ∃ c ∈ bs, hexDigit c = none := by
  induction bs with
  | nil => simp [hexDigits]
  | cons b bs ih =>
    rw [hexDigits, List.exists_mem_cons_iff, ← ih]
    cases hexDigit b <;> cases hexDigits bs <;> simp

/-! ## Bytes written by the host -/

/-- The bytes of a buffer just written are read back. -/
theorem bufferReadBytes_bufferWriteBytes (space : Space) (buf : Buffer) (bs : List Byte) :
    bufferReadBytes space (bufferWriteBytes buf 0 bs) 0 bs.length = bs := by
  refine List.ext_getElem (bufferReadBytes_length ..) fun j _ hj => ?_
  simp [bufferReadBytes, bufferRead_bufferWriteBytes, hj, List.getD_eq_getElem?_getD]

/-! ## The host's lines (R76) -/

theorem hostRun_singleton (x : Transaction) (s : State) : hostRun [x] s = perform x s := by
  rw [hostRun]
  cases perform x s <;> rfl

@[simp] theorem perform_commandLine (i : Instr) (s : State) : perform (commandLine i) s = exec i s :=
  writeCommand_commandWord i s

/-- The state after the host has written a key text and its length (R76). -/
def withKeyText (h : List Byte) (s : State) : State :=
  { s with kbuf := bufferWriteBytes s.kbuf 0 (keyBytes h), klen := BitVec.ofNat 32 (keyBytes h).length }

/-- The state after the host has written a payload and its length (R76). -/
def withInput (b : List Byte) (s : State) : State :=
  { s with ibuf := bufferWriteBytes s.ibuf 0 b, ilen := BitVec.ofNat 32 b.length }

theorem keyBytes_length (h : List Byte) : (keyBytes h).length = min Config.kbufMax h.length := List.length_take

theorem keyBytes_length_le (h : List Byte) : (keyBytes h).length ≤ Config.kbufMax :=
  keyBytes_length h ▸ Nat.min_le_left ..

theorem perform_memWrite_kbuf {bs : List Byte} (h : bs.length ≤ Config.kbufMax) (s : State) :
    perform (.memWrite .kbuf 0 bs.length bs) s = .next { s with kbuf := bufferWriteBytes s.kbuf 0 bs } := by
  rw [perform, hostWrite, if_neg (not_not_intro rfl), if_neg (by rw [State.capacity]; omega)]

theorem perform_memWrite_ibuf {bs : List Byte} {s : State} (h : bs.length ≤ s.bufMax) :
    perform (.memWrite .ibuf 0 bs.length bs) s = .next { s with ibuf := bufferWriteBytes s.ibuf 0 bs } := by
  rw [perform, hostWrite, if_neg (not_not_intro rfl), if_neg (by rw [State.capacity]; omega)]

/-- `WriteReg(KLEN)` of a length in range (R30). -/
theorem perform_writeKlen {n : Nat} (h : n ≤ Config.kbufMax) (s : State) :
    perform (.writeReg 0x23 (BitVec.ofNat 64 n)) s = .next { s with klen := BitVec.ofNat 32 n } := by
  have hn : (BitVec.ofNat 64 n).toNat = n := Nat.mod_eq_of_lt (h.trans_lt (by decide))
  have hreg : regOfNumber 0x23 = .klen := rfl
  rw [perform_writeReg (by decide), hreg, State.writeReg, hn, if_pos h, BitVec.setWidth_ofNat_of_le (by decide)]

/-- `WriteReg(ILEN)` of a length in range (R30). -/
theorem perform_writeIlen {n : Nat} {s : State} (h : n ≤ s.bufMax) :
    perform (.writeReg 0x24 (BitVec.ofNat 64 n)) s = .next { s with ilen := BitVec.ofNat 32 n } := by
  obtain ⟨-, hmax, -⟩ := bufMax_legal s
  have hn : (BitVec.ofNat 64 n).toNat = n := Nat.mod_eq_of_lt (by omega)
  have hreg : regOfNumber 0x24 = .ilen := rfl
  rw [perform_writeReg (by decide), hreg, State.writeReg, hn, if_pos h, BitVec.setWidth_ofNat_of_le (by decide)]

theorem hostRun_writeKey (h : List Byte) (s : State) : hostRun (writeKey h) s = .next (withKeyText h s) := by
  have hlen := keyBytes_length_le h
  rw [writeKey, hostRun_cons (perform_memWrite_kbuf hlen s), hostRun_singleton, perform_writeKlen hlen]
  rfl

theorem hostRun_loadIn {b : List Byte} {s : State} (hb : b.length ≤ s.bufMax) :
    hostRun (loadIn b) s = .next (withInput b s) := by
  rw [loadIn, hostRun_cons (perform_memWrite_ibuf hb), hostRun_singleton]
  exact perform_writeIlen hb

theorem klen_withKeyText (h : List Byte) (s : State) : (withKeyText h s).klen.toNat = (keyBytes h).length := by
  rw [withKeyText, BitVec.toNat_ofNat, Nat.mod_eq_of_lt ((keyBytes_length_le h).trans_lt (by decide))]

theorem kin_withKeyText (h : List Byte) (s : State) : (withKeyText h s).kin = keyBytes h := by
  rw [State.kin, klen_withKeyText]
  exact bufferReadBytes_bufferWriteBytes ..

theorem input_withInput {b : List Byte} {s : State} (hb : b.length ≤ s.bufMax) : (withInput b s).input = b := by
  obtain ⟨-, hmax, -⟩ := bufMax_legal s
  have hilen : (withInput b s).ilen.toNat = b.length := by
    rw [withInput, BitVec.toNat_ofNat, Nat.mod_eq_of_lt (by omega)]
  rw [State.input, hilen]
  exact bufferReadBytes_bufferWriteBytes ..

/-! ## The key lines -/

/-- A key text that `LDKEY.HEX` accepts (R121). -/
def ValidKeyText (h : List Byte) : Prop := h.length = 16 ∧ ∀ c ∈ h, hexDigit c ≠ none

/-- The key of a text (R121). -/
def hexKey (h : List Byte) : Block := BitVec.ofNat 64 (hexValue ((hexDigits h).getD []))

theorem keyBytes_of_length {h : List Byte} (hlen : h.length = 16) : keyBytes h = h :=
  List.take_of_length_le (by rw [hlen]; decide)

theorem exec_ldkeyHex {s : State} (hs : s.errf = false) (hlen : s.klen = 16) {ds : List Nat}
    (hds : hexDigits s.kin = some ds) : exec .ldkeyHex s = .next (s.loadKey (BitVec.ofNat 64 (hexValue ds))) := by
  rw [exec, execLdkeyHex, unlessFaulted_clear hs, if_neg (not_not_intro hlen), hds]

theorem exec_ldkeyHex_length {s : State} (hs : s.errf = false) (hlen : s.klen ≠ 16) :
    exec .ldkeyHex s = .next (s.raise .invalidKeyLength) := by
  rw [exec, execLdkeyHex, unlessFaulted_clear hs, if_pos hlen]

theorem exec_ldkeyHex_format {s : State} (hs : s.errf = false) (hlen : s.klen = 16) (hds : hexDigits s.kin = none) :
    exec .ldkeyHex s = .next (s.raise .invalidKeyFormat) := by
  rw [exec, execLdkeyHex, unlessFaulted_clear hs, if_neg (not_not_intro hlen), hds]

theorem exec_ksched_loaded {s : State} (hs : s.errf = false) (hk : s.kv = true) :
    exec .ksched s = .next { s with
      rk := deriveRoundKeys s.key, c := (keyHalves s.key 16).1, d := (keyHalves s.key 16).2, rkv := true } := by
  rw [exec, execKsched, unlessFaulted_clear hs, if_pos hk]

theorem exec_ldkeyHex_valid {h : List Byte} (hkey : ValidKeyText h) {s : State} (hs : s.errf = false) :
    exec .ldkeyHex (withKeyText h s) = .next ((withKeyText h s).loadKey (hexKey h)) := by
  obtain ⟨hlen, hdigits⟩ := hkey
  have hbytes := keyBytes_of_length hlen
  have hds : (hexDigits h).isSome := by
    rw [Option.isSome_iff_ne_none, Ne, hexDigits_eq_none_iff]
    exact fun ⟨c, hc, hnone⟩ => hdigits c hc hnone
  obtain ⟨ds, hds⟩ := Option.isSome_iff_exists.mp hds
  rw [hexKey, hds, Option.getD_some]
  refine exec_ldkeyHex (s := withKeyText h s) hs ?_ ?_
  · rw [withKeyText, hbytes, hlen]; rfl
  · rw [kin_withKeyText, hbytes, hds]

/-- Any other text faults `InvalidKey` (R121). -/
theorem exec_ldkeyHex_invalid {h : List Byte} (hkey : h.length ≠ 16 ∨ ∃ c ∈ h, hexDigit c = none) {s : State}
    (hs : s.errf = false) :
    ∃ e : Err, e.code = 1 ∧ exec .ldkeyHex (withKeyText h s) = .next ((withKeyText h s).raise e) := by
  by_cases hlen : h.length = 16
  · have hbytes := keyBytes_of_length hlen
    refine ⟨.invalidKeyFormat, rfl, exec_ldkeyHex_format (s := withKeyText h s) hs ?_ ?_⟩
    · rw [withKeyText, hbytes, hlen]; rfl
    · rw [kin_withKeyText, hbytes, hexDigits_eq_none_iff]
      exact hkey.resolve_left (not_not_intro hlen)
  · refine ⟨.invalidKeyLength, rfl, exec_ldkeyHex_length (s := withKeyText h s) hs fun hklen => hlen ?_⟩
    have hmin : (keyBytes h).length = 16 := by rw [← klen_withKeyText h s, hklen]; rfl
    rw [keyBytes_length, Config.kbufMax] at hmin
    omega

/-- The lines of `SETKEY.HEX` are the key bytes, the load and the schedule. -/
theorem hostRun_setKeyHex {h : List Byte} {s t : State} (ht : exec .ldkeyHex (withKeyText h s) = .next t) :
    hostRun (setKeyHex h) s = exec .ksched t := by
  rw [setKeyHex, hostRun_append (hostRun_writeKey h s), hostRun_cons (perform_commandLine .ldkeyHex _ ▸ ht),
    hostRun_singleton, perform_commandLine]

/-- The state in which the stream command of R76 starts, when the key text is valid: the schedule of the key and the payload stand
ready. -/
structure StreamReady (h b : List Byte) (s t : State) : Prop where
  errf : t.errf = false
  rkv : t.rkv = true
  rk : t.rk = deriveRoundKeys (hexKey h)
  input : t.input = b
  bufBlocks : t.bufBlocks = s.bufBlocks

theorem hostRun_streamLines {i : Instr} {h b : List Byte} {s t : State} (ht : hostRun (setKeyHex h) s = .next t)
    (hb : b.length ≤ t.bufMax) : hostRun (streamLines i h b) s = exec i (withInput b t) := by
  rw [streamLines, List.append_assoc, hostRun_append ht, hostRun_append (hostRun_loadIn hb), hostRun_singleton,
    perform_commandLine]

/-- A valid key text leaves its schedule (R76, R121, R125). -/
theorem setKeyHex_valid {h : List Byte} {s : State} (hkey : ValidKeyText h) (hs : s.errf = false) :
    ∃ u : State, hostRun (setKeyHex h) s = .next u ∧ u.errf = false ∧ u.rkv = true ∧
      u.rk = deriveRoundKeys (hexKey h) ∧ u.bufBlocks = s.bufBlocks := by
  rw [hostRun_setKeyHex (exec_ldkeyHex_valid hkey hs),
    exec_ksched_loaded (s := (withKeyText h s).loadKey (hexKey h)) hs rfl]
  exact ⟨_, rfl, hs, rfl, rfl, rfl⟩

theorem streamLines_valid {h b : List Byte} {s : State} (hkey : ValidKeyText h) (hs : s.errf = false)
    (hb : b.length ≤ s.bufMax) : ∃ t, StreamReady h b s t ∧ ∀ i, hostRun (streamLines i h b) s = exec i t := by
  obtain ⟨u, hset, herrf, hrkv, hrk, hblocks⟩ := setKeyHex_valid hkey hs
  have hbu : b.length ≤ u.bufMax := by rw [State.bufMax, hblocks]; exact hb
  exact ⟨withInput b u, ⟨herrf, hrkv, hrk, input_withInput hbu, hblocks⟩, fun i => hostRun_streamLines hset hbu⟩

/-- With a bad key text the fault stays recorded to the end: every later line but `CLRERR` leaves it (R194). -/
theorem streamLines_invalid {h b : List Byte} {s : State} (hkey : h.length ≠ 16 ∨ ∃ c ∈ h, hexDigit c = none)
    (hs : s.errf = false) (hb : b.length ≤ s.bufMax) :
    ∃ t : State, t.err.code = 1 ∧ t.olen = 0 ∧ ∀ i, i ≠ .clrerr → hostRun (streamLines i h b) s = .next t := by
  obtain ⟨e, he, hload⟩ := exec_ldkeyHex_invalid hkey hs
  have hfault : ((withKeyText h s).raise e).errf = true := raise_errf e _ fun hc => by rw [hc] at he; cases he
  have hset := (hostRun_setKeyHex hload).trans (exec_faulted nofun hfault)
  exact ⟨_, he, rfl, fun i hi => (hostRun_streamLines hset hb).trans (exec_faulted hi hfault)⟩

/-! ## The stream commands on a payload that stands ready -/

theorem exec_encbytes {s : State} (hs : s.errf = false) (hr : s.rkv = true) :
    exec .encbytes s = .next (s.output (encryptStream s.rk s.input)) := by
  rw [exec, execEncbytes, unlessFaulted_clear hs, withSchedule_valid hr]

theorem exec_decbytes_length {s : State} (hs : s.errf = false) (hr : s.rkv = true) (hlen : s.ilen.toNat % 8 ≠ 0) :
    exec .decbytes s = .next (s.raise .malformedLength) := by
  rw [exec, execDecbytes, unlessFaulted_clear hs, withSchedule_valid hr, if_pos hlen]

theorem exec_decbytes_empty {s : State} (hs : s.errf = false) (hr : s.rkv = true) (hlen : s.ilen = 0) :
    exec .decbytes s = .next (s.raise .malformedEmpty) := by
  rw [exec, execDecbytes, unlessFaulted_clear hs, withSchedule_valid hr, if_neg (by simp [hlen]), if_pos hlen]

theorem exec_decbytes_blocks {s : State} (hs : s.errf = false) (hr : s.rkv = true) (hlen : s.ilen.toNat % 8 = 0)
    (hpos : s.ilen ≠ 0) : exec .decbytes s = .next (s.outputUnpadded (decryptStream s.rk s.input)) := by
  rw [exec, execDecbytes, unlessFaulted_clear hs, withSchedule_valid hr, if_neg (not_not_intro hlen), if_neg hpos]

/-- `DECBYTES` puts out a beginning of the decrypted stream, or faults `MalformedCiphertext`: with `LENGTH` for a length that is no
multiple of 8, with `EMPTY` for an empty stream (R165). -/
theorem exec_decbytes_cases {s : State} (hs : s.errf = false) (hr : s.rkv = true) :
    (∃ n, exec .decbytes s = .next (s.output ((decryptStream s.rk s.input).take n)) ∧
      s.ilen.toNat % 8 = 0 ∧ s.ilen.toNat ≠ 0) ∨
    ∃ e : Err, exec .decbytes s = .next (s.raise e) ∧ e.code = 2 ∧
      (s.ilen.toNat % 8 ≠ 0 → e = .malformedLength) ∧ (s.ilen.toNat = 0 → e = .malformedEmpty) := by
  by_cases hlen : s.ilen.toNat % 8 = 0
  · by_cases hpos : s.ilen = 0
    · exact .inr ⟨_, exec_decbytes_empty hs hr hpos, rfl, fun h => absurd hlen h, fun _ => rfl⟩
    · have hne : s.ilen.toNat ≠ 0 := fun h => hpos (BitVec.eq_of_toNat_eq h)
      rw [exec_decbytes_blocks hs hr hlen hpos, State.outputUnpadded]
      rcases unpad8_cases (decryptStream s.rk s.input) with ⟨e, he, hcase⟩ | ⟨n, hn⟩
      · rw [he]
        refine .inr ⟨e, rfl, ?_, fun h => absurd hlen h, fun h => absurd h hne⟩
        rcases hcase with rfl | rfl | rfl <;> rfl
      · rw [hn]
        exact .inl ⟨n, rfl, hlen, hne⟩
  · exact .inr ⟨_, exec_decbytes_length hs hr hlen, rfl, fun _ => rfl, fun h => by omega⟩

/-- The ciphertext of a payload is decrypted to it (R167). -/
theorem exec_decbytes_encryptStream {s : State} (hs : s.errf = false) (hr : s.rkv = true) {b : List Byte}
    (hin : s.input = encryptStream s.rk b) : exec .decbytes s = .next (s.output b) := by
  have hlen : s.ilen.toNat = 8 * (b.length / 8 + 1) := by rw [← input_length, hin, encryptStream_length]
  have hpos : s.ilen ≠ 0 := fun h => by rw [h] at hlen; simp at hlen
  rw [exec_decbytes_blocks hs hr (by omega) hpos, hin, decryptStream_encryptStream, State.outputUnpadded, unpad8_pad8]

/-! ## Reading the answer -/

/-- The host is answered these bytes, and no fault is recorded. -/
def Answers (o : Outcome) (bs : List Byte) : Prop := ∃ t : State, o = .next t ∧ t.errf = false ∧ t.reply = .bytes bs

/-- What a stream command put out is read whole when it fits `OBUF`. -/
theorem readOutput_output {s : State} {bs : List Byte} (h : bs.length ≤ s.bufMax + 8) :
    readOutput (s.output bs) = .next { s.output bs with reply := .bytes bs } := by
  obtain ⟨-, hmax, -⟩ := bufMax_legal s
  have holen : (s.output bs).olen.toNat = bs.length := by
    rw [State.output_olen, BitVec.toNat_ofNat, Nat.mod_eq_of_lt (by omega)]
  have hread : bufferReadBytes .obuf (s.output bs).obuf 0 bs.length = bs := bufferReadBytes_bufferWriteBytes ..
  rw [readOutput_eq _ (holen ▸ h), holen, hread]

theorem readOutput_answers {s : State} {bs : List Byte} (hs : s.errf = false) (h : bs.length ≤ s.bufMax + 8) :
    Answers (readOutput (s.output bs)) bs := ⟨_, readOutput_output h, hs, rfl⟩

/-- Reading `ERR` first changes the reply alone, which the output replaces. -/
theorem readResult_answers {s : State} {bs : List Byte} (hs : s.errf = false) (h : bs.length ≤ s.bufMax + 8) :
    Answers (readResult (s.output bs)) bs :=
  readResult_clear (s.output bs) hs ▸ readOutput_answers (s := { s with reply := .value 0 }) hs h

/-- With `OLEN` 0, as after fault entry, no byte is read (R193). -/
theorem readOutput_empty {s : State} (h : s.olen = 0) : readOutput s = .next { s with reply := .bytes [] } := by
  rw [readOutput_eq s (by simp [h]), h]
  rfl

/-! ## The contract -/

/-- Both readers of R76 and R171 answer the bytes that the stream command put out. -/
theorem runThen_answers {i : Instr} {h b bs : List Byte} {s t : State} (hrun : hostRun (streamLines i h b) s = exec i t)
    (hexec : exec i t = .next (t.output bs)) (ht : t.errf = false) (hbs : bs.length ≤ t.bufMax + 8) :
    Answers (runThen (streamLines i h b) readResult s) bs ∧ Answers (runThen (streamLines i h b) readOutput s) bs := by
  rw [runThen_next (hrun.trans hexec), runThen_next (hrun.trans hexec)]
  exact ⟨readResult_answers ht hbs, readOutput_answers ht hbs⟩

theorem StreamReady.bufMax {h b : List Byte} {s t : State} (ht : StreamReady h b s t) : t.bufMax = s.bufMax :=
  congrArg Config.bufMax ht.bufBlocks

theorem StreamReady.ilen {h b : List Byte} {s t : State} (ht : StreamReady h b s t) : t.ilen.toNat = b.length := by
  rw [← input_length, ht.input]

/-- Encryption under a valid key text never fails. -/
theorem encrypt_answers {h b : List Byte} {s : State} (hkey : ValidKeyText h) (hs : s.errf = false)
    (hb : b.length ≤ s.bufMax) :
    Answers (encryptBytes h b s) (encryptStream (deriveRoundKeys (hexKey h)) b) ∧
    Answers (encryptSequence h b s) (encryptStream (deriveRoundKeys (hexKey h)) b) := by
  obtain ⟨t, ht, hrun⟩ := streamLines_valid hkey hs hb
  refine runThen_answers (hrun _) ?_ ht.errf ?_
  · rw [exec_encbytes ht.errf ht.rkv, ht.rk, ht.input]
  · rw [ht.bufMax]
    exact (encryptStream_length_le _ _).trans (by omega)

/-- Decryption of a ciphertext under its key text answers the plaintext. -/
theorem decrypt_answers {h b : List Byte} {u : State} (hkey : ValidKeyText h) (hu : u.errf = false)
    (hb : (encryptStream (deriveRoundKeys (hexKey h)) b).length ≤ u.bufMax) :
    Answers (decryptBytes h (encryptStream (deriveRoundKeys (hexKey h)) b) u) b ∧
    Answers (decryptSequence h (encryptStream (deriveRoundKeys (hexKey h)) b) u) b := by
  obtain ⟨t, ht, hrun⟩ := streamLines_valid hkey hu hb
  refine runThen_answers (hrun _) (exec_decbytes_encryptStream ht.errf ht.rkv ?_) ht.errf ?_
  · rw [ht.input, ht.rk]
  · rw [ht.bufMax]
    rw [encryptStream_length] at hb
    omega

/-- Decryption of any payload answers bytes, or the value of `ERR` under `MalformedCiphertext`. -/
theorem decryptBytes_cases {h b : List Byte} {s : State} (hkey : ValidKeyText h) (hs : s.errf = false)
    (hb : b.length ≤ s.bufMax) :
    ∃ t, decryptBytes h b s = .next t ∧
      ((t.err = .clear ∧ ∃ bs, t.reply = .bytes bs) ∨ (t.err.code = 2 ∧ t.reply = .value (zext64 t.err.byte))) ∧
      (b.length % 8 ≠ 0 → t.err = .malformedLength) ∧ (b = [] → t.err = .malformedEmpty) := by
  obtain ⟨t, ht, hrun⟩ := streamLines_valid hkey hs hb
  rcases exec_decbytes_cases ht.errf ht.rkv with ⟨n, hexec, hlen, hpos⟩ | ⟨e, hexec, hcode, hlength, hempty⟩ <;>
    rw [decryptBytes, runThen_next ((hrun _).trans hexec)]
  · have hfit : ((decryptStream t.rk t.input).take n).length ≤ t.bufMax + 8 := by
      have := decryptStream_length_le t.rk t.input
      rw [ht.input] at this
      rw [List.length_take, ht.input, ht.bufMax]
      omega
    obtain ⟨v, hv, hverr, hreply⟩ := readResult_answers ht.errf hfit
    rw [ht.ilen] at hlen hpos
    exact ⟨v, hv, .inl ⟨(errf_eq_false v).mp hverr, _, hreply⟩, fun h => absurd hlen h,
      fun h => absurd (congrArg List.length h) hpos⟩
  · have he : (t.raise e).errf = true := raise_errf e t fun hc => by rw [hc] at hcode; cases hcode
    rw [ht.ilen] at hlength hempty
    exact ⟨_, readResult_fault _ he, .inr ⟨hcode, rfl⟩, hlength, fun hnil => hempty (congrArg List.length hnil)⟩

/-- Both readers answer a failure under any other key text: the value of `ERR`, and no byte. -/
theorem runThen_invalidKey {i : Instr} {h b : List Byte} {s : State} (hi : i ≠ .clrerr)
    (hkey : h.length ≠ 16 ∨ ∃ c ∈ h, hexDigit c = none) (hs : s.errf = false) (hb : b.length ≤ s.bufMax) :
    (∃ t, runThen (streamLines i h b) readResult s = .next t ∧ t.err.code = 1 ∧ t.olen = 0 ∧
      t.reply = .value (zext64 t.err.byte)) ∧
    ∃ t, runThen (streamLines i h b) readOutput s = .next t ∧ t.err.code = 1 ∧ t.olen = 0 ∧ t.reply = .bytes [] := by
  obtain ⟨t, hcode, holen, hrun⟩ := streamLines_invalid hkey hs hb
  have hfault : t.errf = true := by rw [State.errf, hcode]; rfl
  rw [runThen_next (hrun i hi), runThen_next (hrun i hi)]
  exact ⟨⟨_, readResult_fault t hfault, hcode, holen, rfl⟩, ⟨_, readOutput_empty holen, hcode, holen, rfl⟩⟩

/-- Settles O46, from the answers under a valid key text and the failures under any other. -/
theorem encryptThenDecryptGivesThePlaintext : Obligations.EncryptThenDecryptGivesThePlaintext := by
  refine fun h b s hs hb => ⟨fun hkey => ⟨?roundTrip, decryptBytes_cases hkey hs hb⟩, fun hkey i hi => ?invalidKey⟩
  case roundTrip =>
    obtain ⟨hbytes, hsequence⟩ := encrypt_answers hkey hs hb
    exact ⟨_, encryptStream_length _ b, hbytes, hsequence, fun u hu hfit => decrypt_answers hkey hu hfit⟩
  case invalidKey => exact runThen_invalidKey (by rcases hi with rfl | rfl <;> nofun) hkey hs hb

end Sys2Proof

/-! # The constant tables and the permutation commands

`tablesValid` is read off condition by condition (`tablesValid_iff`), and gives the ranges of the six permutation tables. With
them a permutation moves bits in slice numbering (`permute_getLsbD`), and so does the template of the six `PERM.t`
(`permuteW_moves_bits`). -/

namespace Sys2Proof

open Machine

/-! ## The conditions of `TablesValid` -/

/-- R106 (c). -/
theorem noRepeats_iff (t : List Nat) : noRepeats t = true ↔ t.Nodup := by
  induction t with
  | nil => simp [noRepeats]
  | cons x xs ih => simp [noRepeats, ih]

/-- R106 (a) and (b). -/
theorem permutationTableOk_iff (n m : Nat) (t : List Nat) :
    permutationTableOk n m t = true ↔ t.length = m ∧ ∀ x ∈ t, 1 ≤ x ∧ x ≤ n := by simp [permutationTableOk]

/-- R106 (d). -/
theorem sboxOk_iff (b : List (List Nat)) :
    sboxOk b = true ↔ b.length = 4 ∧ ∀ row ∈ b, row.length = 16 ∧ ∀ x ∈ row, x ≤ 15 := by simp [sboxOk]

/-- R106: the test as a proposition, its conjuncts in the order of the definition. -/
theorem tablesValid_iff (t : Tables) : tablesValid t = true ↔
    (t.ip.length = 64 ∧ ∀ x ∈ t.ip, 1 ≤ x ∧ x ≤ 64) ∧ (t.fp.length = 64 ∧ ∀ x ∈ t.fp, 1 ≤ x ∧ x ≤ 64) ∧
    (t.e.length = 48 ∧ ∀ x ∈ t.e, 1 ≤ x ∧ x ≤ 32) ∧ (t.p.length = 32 ∧ ∀ x ∈ t.p, 1 ≤ x ∧ x ≤ 32) ∧
    (t.pc1.length = 56 ∧ ∀ x ∈ t.pc1, 1 ≤ x ∧ x ≤ 64) ∧ (t.pc2.length = 48 ∧ ∀ x ∈ t.pc2, 1 ≤ x ∧ x ≤ 56) ∧
    (t.ip.Nodup ∧ t.fp.Nodup ∧ t.p.Nodup ∧ t.pc1.Nodup ∧ t.pc2.Nodup) ∧
    (t.sboxes.length = 8 ∧ ∀ b ∈ t.sboxes, b.length = 4 ∧ ∀ row ∈ b, row.length = 16 ∧ ∀ x ∈ row, x ≤ 15) ∧
    (t.shifts.length = 16 ∧ ∀ x ∈ t.shifts, x = 1 ∨ x = 2) := by
  simp only [tablesValid, Bool.and_eq_true, Bool.or_eq_true, beq_iff_eq, List.all_eq_true, permutationTableOk_iff,
    noRepeats_iff, sboxOk_iff, and_assoc]

/-- Settles O13: the conditions on each table, collected by condition. -/
theorem tablesValidIsTheConditions : Obligations.TablesValidIsTheConditions := by
  refine ⟨tablesValid_theTables, fun t => (tablesValid_iff t).trans ⟨?_, ?_⟩⟩
  · rintro ⟨⟨hip, hip'⟩, ⟨hfp, hfp'⟩, ⟨he, he'⟩, ⟨hp, hp'⟩, ⟨hpc1, hpc1'⟩, ⟨hpc2, hpc2'⟩, hrest⟩
    exact ⟨⟨hip, hfp, he, hp, hpc1, hpc2⟩, ⟨hip', hfp', he', hp', hpc1', hpc2'⟩, hrest⟩
  · rintro ⟨⟨hip, hfp, he, hp, hpc1, hpc2⟩, ⟨hip', hfp', he', hp', hpc1', hpc2'⟩, hrest⟩
    exact ⟨⟨hip, hip'⟩, ⟨hfp, hfp'⟩, ⟨he, he'⟩, ⟨hp, hp'⟩, ⟨hpc1, hpc1'⟩, ⟨hpc2, hpc2'⟩, hrest⟩

/-! ## The table check -/

theorem tableCheck_valid {t : Tables} (h : tablesValid t = true) (s : State) : tableCheck t s = s := if_pos h

theorem tableCheck_invalid {t : Tables} (h : tablesValid t = false) (s : State) :
    tableCheck t s = s.raise .configurationError := if_neg (Bool.eq_false_iff.mp h)

/-- With this hardware's tables `TBLCHK` changes nothing, whether a fault is recorded or not (R107). -/
theorem exec_tblchk (s : State) : exec .tblchk s = .next s := by
  rw [exec, execTblchk, unlessFaulted, tableCheck_valid tablesValid_theTables, ite_self]

/-- Settles O14. -/
theorem tblchkChangesNothing : Obligations.TblchkChangesNothing :=
  ⟨rfl, exec_tblchk, fun _ s => ⟨fun h => tableCheck_valid h s, fun h => tableCheck_invalid h s⟩⟩

/-! ## FP and IP -/

theorem ip_getD_fp {i : Nat} (hi : i < 64) : tableIp.getD (tableFp.getD i 0 - 1) 0 = i + 1 := by
  revert i; decide

theorem fp_getD_ip {i : Nat} (hi : i < 64) : tableFp.getD (tableIp.getD i 0 - 1) 0 = i + 1 := by
  revert i; decide

/-- Settles O15: the entries counted from 1 are those counted from 0, and the permutations cancel. -/
theorem fpInvertsIp : Obligations.FpInvertsIp := by
  refine ⟨fun i h1 h64 => ?_, fun i h1 h64 => ?_, fun x => ⟨permute_fp_ip x, permute_ip_fp x⟩⟩
  · rw [ip_getD_fp (by omega), Nat.sub_add_cancel h1]
  · rw [fp_getD_ip (by omega), Nat.sub_add_cancel h1]

/-! ## `permute` in slice numbering -/

/-- Position `p`, from 1 at the most significant end, is bit `n - p` (R7(c)). -/
theorem getMsbD_pred {n p : Nat} (x : BitVec n) (hp : 1 ≤ p ∧ p ≤ n) : x.getMsbD (p - 1) = x.getLsbD (n - p) := by
  obtain ⟨h1, hn⟩ := hp
  rw [BitVec.getMsbD_eq_getLsbD, decide_eq_true (by omega), Bool.true_and, Nat.sub_sub, Nat.add_sub_cancel' h1]

theorem getD_mem {t : List Nat} {i : Nat} (hi : i < t.length) : t.getD i 0 ∈ t := by
  rw [List.getD_eq_getElem t 0 hi]
  exact List.getElem_mem hi

/-- R90 in slice numbering. -/
theorem permute_getLsbD {n m : Nat} {t : List Nat} (ht : t.length = m) (hr : ∀ p ∈ t, 1 ≤ p ∧ p ≤ n) (x : BitVec n)
    {i : Nat} (hi : i < m) : (permute m t x).getLsbD (m - 1 - i) = x.getLsbD (n - t.getD i 0) := by
  have hout : (permute m t x).getMsbD i = (permute m t x).getLsbD (m - 1 - i) := by
    rw [BitVec.getMsbD_eq_getLsbD, decide_eq_true hi, Bool.true_and]
  rw [← hout, permute_getMsbD ht x hi, getMsbD_pred x (hr _ (getD_mem (ht ▸ hi)))]

/-- Settles O17. -/
theorem permuteMovesPositions : Obligations.PermuteMovesPositions :=
  fun _ _ _ x ht hr _ hi => ⟨permute_getMsbD ht x hi, permute_getLsbD ht hr x hi⟩

/-! ## The template of the six `PERM.t` -/

/-- The operand of a `PERM.t` as the slice that the pseudocode writes. -/
theorem operand_eq_extractLsb' (n : Nat) (s : State) : s.operand n = s.w.extractLsb' 0 n :=
  BitVec.eq_of_getLsbD_eq fun j hj => by simp [State.operand, hj]

theorem permuteW_clear {n m : Nat} {t : List Nat} {s : State} (hs : s.errf = false) :
    permuteW n m t s = .next { s with w := zext64 (permute m t (s.w.extractLsb' 0 n)) } := by
  rw [permuteW, unlessFaulted_clear hs, operand_eq_extractLsb', State.setResult]

/-- The operand that is all of `W`. -/
theorem permuteW_clear_full {m : Nat} {t : List Nat} {s : State} (hs : s.errf = false) :
    permuteW 64 m t s = .next { s with w := zext64 (permute m t s.w) } := by
  rw [permuteW_clear hs, BitVec.extractLsb'_eq_self]

/-- The result that is all of `W`. -/
theorem permuteW_clear_block {t : List Nat} {s : State} (hs : s.errf = false) :
    permuteW 64 64 t s = .next { s with w := permute 64 t s.w } := by
  rw [permuteW_clear_full hs, zext64, BitVec.setWidth_eq]

/-- Settles O18: the template for each of the six tables. -/
theorem permCommandsApplyTheirTables : Obligations.PermCommandsApplyTheirTables :=
  ⟨rfl, fun _ hs => ⟨permuteW_clear_block hs, permuteW_clear_block hs, permuteW_clear hs, permuteW_clear hs,
    permuteW_clear_full hs, permuteW_clear hs⟩⟩

/-- R98: each bit of the result is the operand's bit that the table names. -/
theorem setResult_permute_getLsbD {n m : Nat} {t : List Nat} (hm : m ≤ 64) (ht : t.length = m)
    (hr : ∀ p ∈ t, 1 ≤ p ∧ p ≤ n) (s : State) {j : Nat} (hj : j < m) :
    (s.setResult (permute m t (s.operand n))).w.getLsbD (m - 1 - j) = s.w.getLsbD (n - t.getD j 0) := by
  obtain ⟨h1, hn⟩ := hr _ (getD_mem (ht ▸ hj))
  rw [State.setResult_w, BitVec.getLsbD_setWidth, decide_eq_true (by omega), Bool.true_and, permute_getLsbD ht hr _ hj,
    State.operand, BitVec.getLsbD_setWidth, decide_eq_true (by omega), Bool.true_and]

/-- R98 for any table with its widths. -/
theorem permuteW_moves_bits {n m : Nat} {t : List Nat} (hm : m ≤ 64) (ht : t.length = m ∧ ∀ p ∈ t, 1 ≤ p ∧ p ≤ n)
    (s : State) :
    (s.errf = true → permuteW n m t s = .next s) ∧
    (s.errf = false → ∃ u : State, permuteW n m t s = .next u ∧ u = { s with w := u.w } ∧
      (∀ j, j < m → u.w.getLsbD (m - 1 - j) = s.w.getLsbD (n - t.getD j 0)) ∧
      ∀ j, m ≤ j → u.w.getLsbD j = false) :=
  ⟨unlessFaulted_faulted, fun hs => ⟨_, unlessFaulted_clear hs, rfl,
    fun _ => setResult_permute_getLsbD hm ht.1 ht.2 s, fun _ => setResult_high _ s⟩⟩

/-- Settles O19: the template for each of the six tables, whose widths and ranges are conditions of `TablesValid`. -/
theorem permCommandsMoveBits : Obligations.PermCommandsMoveBits := by
  obtain ⟨hip, hfp, he, hp, hpc1, hpc2, -⟩ := (tablesValid_iff theTables).mp tablesValid_theTables
  intro x hx
  simp only [List.mem_cons, List.not_mem_nil, or_false] at hx
  rcases hx with rfl | rfl | rfl | rfl | rfl | rfl
  · exact ⟨rfl, hip.1, permuteW_moves_bits (by decide) hip⟩
  · exact ⟨rfl, hfp.1, permuteW_moves_bits (by decide) hfp⟩
  · exact ⟨rfl, he.1, permuteW_moves_bits (by decide) he⟩
  · exact ⟨rfl, hp.1, permuteW_moves_bits (by decide) hp⟩
  · exact ⟨rfl, hpc1.1, permuteW_moves_bits (by decide) hpc1⟩
  · exact ⟨rfl, hpc2.1, permuteW_moves_bits (by decide) hpc2⟩

end Sys2Proof

/-! # The S-boxes and `SUBST`

Every S-box row is a rearrangement of 0 to 15 (`sboxes_rows_perm`), so every entry is its own 4-bit vector (`sboxEntry_toNat`). What
`SUBST` writes is then read nibble by nibble (`substitute_nibble`), each nibble from its own group (`sboxValue_toNat`). -/

namespace Sys2Proof

open Machine

/-! ## The constants of the S-boxes and the shifts -/

/-- R113. -/
theorem sboxes_rows_perm : ∀ b ∈ sboxes, b.length = 4 ∧ ∀ row ∈ b, row.Perm (List.range 16) := by decide

/-- R123. -/
theorem shifts_getD {r : Nat} (hr : r < 16) :
    shifts.getD r 0 = if r = 0 ∨ r = 1 ∨ r = 8 ∨ r = 15 then 1 else 2 := by
  revert r; decide

/-- Settles O16: a rearrangement of 0 to 15 has sixteen entries and counts each number once. -/
theorem sboxRowsAndShiftsAreAsStated : Obligations.SboxRowsAndShiftsAreAsStated := by
  refine ⟨⟨rfl, fun b hb => ?_⟩, rfl, rfl, fun r => shifts_getD⟩
  obtain ⟨hlength, hrows⟩ := sboxes_rows_perm b hb
  refine ⟨hlength, fun row hrow => ?_⟩
  have hperm := hrows row hrow
  exact ⟨hperm.length_eq.trans List.length_range, fun x hx => by rw [hperm.count_eq, List.count_range, if_pos hx]⟩

/-! ## The entry that a group selects -/

/-- A lookup gives an entry of the list, or the default. -/
theorem getD_of_forall_mem {α : Type} {p : α → Prop} {t : List α} {d : α} (ht : ∀ x ∈ t, p x) (hd : p d) (i : Nat) :
    p (t.getD i d) := by
  by_cases hi : i < t.length
  · rw [List.getD_eq_getElem t d hi]
    exact ht _ (List.getElem_mem hi)
  · rwa [List.getD_eq_default t d (Nat.le_of_not_lt hi)]

/-- Outside the S-boxes the lookup answers 0, so the bound needs no range on the indices. -/
theorem sboxes_getD_lt (i row col : Nat) : ((sboxes.getD i []).getD row []).getD col 0 < 16 := by
  have hentries : ∀ b ∈ sboxes, ∀ r ∈ b, ∀ x ∈ r, x < 16 := fun b hb r hr x hx =>
    List.mem_range.mp (((sboxes_rows_perm b hb).2 r hr).mem_iff.mp hx)
  have hbox := getD_of_forall_mem (d := []) hentries nofun i
  have hrow := getD_of_forall_mem (d := []) hbox nofun row
  exact getD_of_forall_mem hrow (by decide) col

theorem sboxEntry_toNat (i row col : Nat) :
    (sboxEntry i row col).toNat = ((sboxes.getD i []).getD row []).getD col 0 := by
  rw [sboxEntry, BitVec.toNat_ofNat, Nat.mod_eq_of_lt (sboxes_getD_lt i row col)]

theorem toNat_append_ofBool (a b : Bool) : (BitVec.ofBool a ++ BitVec.ofBool b).toNat = 2 * a.toNat + b.toNat := by
  cases a <;> cases b <;> rfl

theorem sboxGroup_getLsbD (x : BitVec 48) (i : Nat) {j : Nat} (hj : j < 6) :
    (sboxGroup x i).getLsbD j = x.getLsbD (42 - 6 * i + j) := by
  rw [sboxGroup, BitVec.getLsbD_extractLsb', decide_eq_true hj, Bool.true_and]

/-- The inner bits of a group, `g[4:1]`, as a slice of the operand. -/
theorem sboxGroup_inner (x : BitVec 48) (i : Nat) :
    (sboxGroup x i).extractLsb' 1 4 = x.extractLsb' (42 - 6 * i + 1) 4 :=
  BitVec.eq_of_getLsbD_eq fun j hj => by
    rw [BitVec.getLsbD_extractLsb', BitVec.getLsbD_extractLsb', sboxGroup_getLsbD x i (by omega), Nat.add_assoc]

/-- R110: the outer bits of group `i` select the row and the inner bits the column. -/
theorem sboxValue_toNat (x : BitVec 48) {i : Nat} (hi : i < 8) :
    (sboxValue x i).toNat =
      ((sboxes.getD i []).getD (2 * (x.getLsbD (47 - 6 * i)).toNat + (x.getLsbD (42 - 6 * i)).toNat) []).getD
        (x.extractLsb' (43 - 6 * i) 4).toNat 0 := by
  have houter : 42 - 6 * i + 5 = 47 - 6 * i := by omega
  have hinner : 42 - 6 * i + 1 = 43 - 6 * i := by omega
  rw [sboxValue, sboxEntry_toNat, toNat_append_ofBool, sboxGroup_getLsbD x i (by decide),
    sboxGroup_getLsbD x i (by decide), sboxGroup_inner, houter, hinner, Nat.add_zero]

/-! ## `substitute` and the command -/

/-- R110: `v_i` is nibble `i` from the most significant end. For each `i` the bit is looked up through the eight appends. -/
theorem substitute_nibble (x : BitVec 48) {i : Nat} (hi : i < 8) :
    (substitute x).extractLsb' (28 - 4 * i) 4 = sboxValue x i := by
  refine BitVec.eq_of_getLsbD_eq fun j hj => ?_
  rw [BitVec.getLsbD_extractLsb', decide_eq_true hj, Bool.true_and, substitute]
  interval_cases i <;> simp only [BitVec.getLsbD_append] <;> grind

/-- R112. -/
theorem exec_subst {s : State} (hs : s.errf = false) :
    exec .subst s = .next { s with w := zext64 (substitute (s.w.extractLsb' 0 48)) } := by
  rw [exec, execSubst, unlessFaulted_clear hs, operand_eq_extractLsb', State.setResult]

/-- Settles O21: the nibble of the output is the value of its group, and that is the entry selected. -/
theorem substLooksUpEveryGroup : Obligations.SubstLooksUpEveryGroup := by
  refine ⟨fun x i hi => ?_, rfl, fun s => ⟨exec_subst, exec_faulted nofun⟩⟩
  rw [substitute_nibble x hi, sboxValue_toNat x hi]

end Sys2Proof

/-! # The key and its schedule

A hex text and a raw text are read back from the key digit by digit (`hexKey_nibble`) and byte by byte (`exec_ldkeyRaw`). The halves of
the schedule are rotations of PC1 of the key (`keyHalves_eq_rotateLeft`), which never looks at a parity bit (`permute_pc1_parityMask`). -/

namespace Sys2Proof

open Machine

/-! ## Hex digits -/

/-- R120: the three ranges of hex digits leave four gaps. -/
theorem hexDigit_eq_none_iff (b : Byte) : hexDigit b = none ↔
    b.toNat < 0x30 ∨ 0x39 < b.toNat ∧ b.toNat < 0x41 ∨ 0x46 < b.toNat ∧ b.toNat < 0x61 ∨ 0x66 < b.toNat := by
  simp only [hexDigit]
  split_ifs <;> simp only [false_iff, true_iff] <;> omega

theorem hexDigit_lt {b : Byte} {d : Nat} (h : hexDigit b = some d) : d < 16 := by
  simp only [hexDigit] at h
  split_ifs at h <;> cases h <;> omega

theorem hexDigit_decimal {j : Nat} (hj : j < 10) : hexDigit (BitVec.ofNat 8 (0x30 + j)) = some j := by
  revert j; decide

/-- The letters, upper and lower case. -/
theorem hexDigit_letter {j : Nat} (hj : j < 6) :
    hexDigit (BitVec.ofNat 8 (0x41 + j)) = some (10 + j) ∧ hexDigit (BitVec.ofNat 8 (0x61 + j)) = some (10 + j) := by
  revert j; decide

/-- Settles O22: the values of the three ranges, and the gaps between them. -/
theorem hexDigitsAreAscii : Obligations.HexDigitsAreAscii :=
  ⟨fun _ => hexDigit_decimal, fun _ => hexDigit_letter, hexDigit_eq_none_iff⟩

/-! ## The digits of a hex text -/

/-- The digits of a text are the digits of its bytes, in order. -/
theorem forall₂_of_hexDigits {bs : List Byte} {ds : List Nat} (h : hexDigits bs = some ds) :
    List.Forall₂ (fun b d => hexDigit b = some d) bs ds := by
  induction bs generalizing ds with
  | nil => cases h; exact .nil
  | cons b bs ih =>
    rw [hexDigits] at h
    split at h
    next x xs hx hxs => cases h; exact .cons hx (ih hxs)
    next => cases h

theorem hexDigits_lt {bs : List Byte} {ds : List Nat} (h : hexDigits bs = some ds) : ∀ d ∈ ds, d < 16 := by
  intro d hd
  obtain ⟨j, hj, rfl⟩ := List.getElem_of_mem hd
  have hall := forall₂_of_hexDigits h
  exact hexDigit_lt (hall.get (hall.length_eq ▸ hj) hj)

/-- R121: the first digit is the most significant, so the digits reversed are those of `Nat.ofDigits`. -/
theorem hexValue_eq_ofDigits (ds : List Nat) : hexValue ds = Nat.ofDigits 16 ds.reverse := by
  rw [Nat.ofDigits_eq_foldr, List.foldr_reverse, hexValue]
  simp only [Nat.cast_id, Nat.add_comm]

/-- Digit `j` of a number written with `ds`. -/
theorem hexValue_digit {ds : List Nat} (hds : ∀ d ∈ ds, d < 16) {j : Nat} (hj : j < ds.length) :
    hexValue ds / 16 ^ (ds.length - 1 - j) % 16 = ds[j] := by
  have hlen : ds.length - 1 - j < ds.reverse.length := by rw [List.length_reverse]; omega
  have hpos : ds.length - 1 - (ds.length - 1 - j) = j := by omega
  rw [hexValue_eq_ofDigits, Nat.ofDigits_div_pow_eq_ofDigits_drop _ (by decide) _ (by simpa using hds),
    List.drop_eq_getElem_cons hlen, Nat.ofDigits_cons, Nat.add_mul_mod_self_left, List.getElem_reverse]
  simp only [hpos]
  exact Nat.mod_eq_of_lt (hds _ (List.getElem_mem hj))

theorem hexValue_lt {ds : List Nat} (hds : ∀ d ∈ ds, d < 16) : hexValue ds < 16 ^ ds.length := by
  rw [hexValue_eq_ofDigits, ← List.length_reverse]
  exact Nat.ofDigits_lt_base_pow_length (by decide) (by simpa using hds)

/-- Nibble `j` of the 64-bit number written with sixteen digits is digit `j`. -/
theorem ofNat_hexValue_nibble {ds : List Nat} (hds : ∀ d ∈ ds, d < 16) (hlen : ds.length = 16) {j : Nat} (hj : j < 16) :
    ((BitVec.ofNat 64 (hexValue ds)).extractLsb' (60 - 4 * j) 4).toNat = ds[j] := by
  have hlt : hexValue ds < 2 ^ 64 := (hexValue_lt hds).trans_eq (by rw [hlen]; rfl)
  have hpow : 2 ^ (60 - 4 * j) = 16 ^ (ds.length - 1 - j) := by
    rw [show 60 - 4 * j = 4 * (ds.length - 1 - j) by omega, pow_mul]
    rfl
  rw [BitVec.extractLsb'_toNat, BitVec.toNat_ofNat, Nat.mod_eq_of_lt hlt, Nat.shiftRight_eq_div_pow, hpow]
  exact hexValue_digit hds (hlen ▸ hj)

theorem hexDigits_of_validKeyText {h : List Byte} (hkey : ValidKeyText h) : ∃ ds, hexDigits h = some ds := by
  refine Option.ne_none_iff_exists'.mp fun hnone => ?_
  obtain ⟨c, hc, hdigit⟩ := (hexDigits_eq_none_iff h).mp hnone
  exact hkey.2 c hc hdigit

theorem hexKey_of_hexDigits {h : List Byte} {ds : List Nat} (hds : hexDigits h = some ds) :
    hexKey h = BitVec.ofNat 64 (hexValue ds) := by rw [hexKey, hds, Option.getD_some]

/-- R121: hex digit `j` of the key, from the most significant, is the digit of byte `j` of the text. -/
theorem hexKey_nibble {h : List Byte} (hkey : ValidKeyText h) {j : Nat} (hj : j < h.length) :
    hexDigit h[j] = some ((hexKey h).extractLsb' (60 - 4 * j) 4).toNat := by
  obtain ⟨ds, hds⟩ := hexDigits_of_validKeyText hkey
  have hall := forall₂_of_hexDigits hds
  have hj' : j < ds.length := hall.length_eq ▸ hj
  have hlen : ds.length = 16 := hall.length_eq.symm.trans hkey.1
  rw [hexKey_of_hexDigits hds, ofNat_hexValue_nibble (hexDigits_lt hds) hlen (hlen ▸ hj')]
  exact hall.get hj hj'

/-! ## The key bytes and the load -/

@[simp] theorem loadKey_errf (k : Block) (s : State) : (s.loadKey k).errf = s.errf := rfl

theorem kin_length (s : State) : s.kin.length = s.klen.toNat := bufferReadBytes_length ..

theorem kin_getElem (s : State) {j : Nat} (hj : j < s.kin.length) : s.kin[j] = bufferRead .kbuf s.kbuf j := by
  simp [State.kin, bufferReadBytes]

theorem exists_mem_kin_iff (s : State) (p : Byte → Prop) :
    (∃ c ∈ s.kin, p c) ↔ ∃ j, j < s.klen.toNat ∧ p (bufferRead .kbuf s.kbuf j) := by
  simp [State.kin, bufferReadBytes]

/-! ## `LDKEY.HEX` -/

theorem validKeyText_kin {s : State} (hlen : s.klen = 16)
    (hdigits : ∀ j, j < 16 → hexDigit (bufferRead .kbuf s.kbuf j) ≠ none) : ValidKeyText s.kin := by
  refine ⟨by rw [kin_length, hlen]; rfl, fun c hc hnone => ?_⟩
  obtain ⟨j, hj, hdigit⟩ := (exists_mem_kin_iff s (hexDigit · = none)).mp ⟨c, hc, hnone⟩
  rw [hlen] at hj
  exact hdigits j hj hdigit

theorem exec_ldkeyHex_kin {s : State} (hs : s.errf = false) (hlen : s.klen = 16) (hkey : ValidKeyText s.kin) :
    exec .ldkeyHex s = .next (s.loadKey (hexKey s.kin)) := by
  obtain ⟨ds, hds⟩ := hexDigits_of_validKeyText hkey
  rw [hexKey_of_hexDigits hds, exec_ldkeyHex hs hlen hds]

/-- Settles O23: the key loaded is `hexKey` of the text, whose nibbles are the digits. -/
theorem ldkeyHexLoadsTheText : Obligations.LdkeyHexLoadsTheText := by
  refine ⟨rfl, fun s hs => ⟨exec_ldkeyHex_length hs, fun hlen hbad => ?format, fun hlen hdigits => ?loads⟩⟩
  case format =>
    have hkin : ∃ c ∈ s.kin, hexDigit c = none := by
      rw [exists_mem_kin_iff s (hexDigit · = none), hlen]
      exact hbad
    exact exec_ldkeyHex_format hs hlen ((hexDigits_eq_none_iff s.kin).mpr hkin)
  case loads =>
    have hkey := validKeyText_kin hlen hdigits
    refine ⟨hexKey s.kin, exec_ldkeyHex_kin hs hlen hkey, fun j hj => ?_⟩
    have hj' : j < s.kin.length := hkey.1 ▸ hj
    rw [← kin_getElem s hj', hexKey_nibble hkey]

/-! ## `LDKEY.RAW` -/

theorem exec_ldkeyRaw {s : State} (hs : s.errf = false) (hlen : s.klen = 8) :
    exec .ldkeyRaw s = .next (s.loadKey (be64 s.kin)) := by
  rw [exec, execLdkeyRaw, unlessFaulted_clear hs, if_neg (not_not_intro hlen)]

theorem exec_ldkeyRaw_length {s : State} (hs : s.errf = false) (hlen : s.klen ≠ 8) :
    exec .ldkeyRaw s = .next (s.raise .invalidKeyLength) := by
  rw [exec, execLdkeyRaw, unlessFaulted_clear hs, if_pos hlen]

/-- Settles O24: byte `j` of `be64` of the eight key bytes is key byte `j`. -/
theorem ldkeyRawLoadsTheBytes : Obligations.LdkeyRawLoadsTheBytes := by
  refine ⟨rfl, fun s hs => ⟨exec_ldkeyRaw_length hs, fun hlen => ⟨be64 s.kin, exec_ldkeyRaw hs hlen, fun j hj => ?_⟩⟩⟩
  have hkin : s.kin.length = 8 := by rw [kin_length, hlen]; rfl
  have hj' : j < s.kin.length := hkin ▸ hj
  have hpos : 56 - 8 * j = 8 * (s.kin.length - 1 - j) := by omega
  rw [hpos, extractLsb'_be64 hkin.le hj', kin_getElem]

/-! ## The halves of the schedule -/

/-- For the shifts of R123, and any other below the width, `rotl28` is the library's rotation. -/
theorem rotl28_eq_rotateLeft (x : KeyHalf) {n : Nat} (hn : n < 28) : rotl28 x n = x.rotateLeft n := by
  rw [rotl28, BitVec.rotateLeft_def, Nat.mod_eq_of_lt hn]

theorem rotateLeft_rotateLeft {w : Nat} (x : BitVec w) (m n : Nat) :
    (x.rotateLeft m).rotateLeft n = x.rotateLeft (m + n) := by
  refine BitVec.eq_of_getMsbD_eq fun i hi => ?_
  have hmod : (n + i) % w < w := Nat.mod_lt _ (by omega)
  simp [BitVec.getMsbD_rotateLeft, hi, hmod, Nat.add_assoc]

theorem rotateLeft_zero {w : Nat} (x : BitVec w) : x.rotateLeft 0 = x := by
  refine BitVec.eq_of_getMsbD_eq fun i hi => ?_
  rw [BitVec.getMsbD_rotateLeft, Nat.zero_add, Nat.mod_eq_of_lt hi, decide_eq_true hi, Bool.true_and]

theorem rotateLeft_width {w : Nat} (x : BitVec w) : x.rotateLeft w = x := by
  rw [← BitVec.rotateLeft_mod_eq_rotateLeft, Nat.mod_self, rotateLeft_zero]

theorem shifts_getD_lt {r : Nat} (hr : r < 16) : shifts.getD r 0 < 28 := by
  rw [shifts_getD hr]
  split <;> decide

/-- R124: the shifts add up from round to round. -/
theorem sum_take_shifts_succ {r : Nat} (hr : r < 16) :
    (shifts.take (r + 1)).sum = (shifts.take r).sum + shifts.getD r 0 := by
  rw [List.sum_take_succ shifts r hr, List.getD_eq_getElem shifts 0 hr]

theorem keyHalves_succ (key : Block) (r : Nat) : keyHalves key (r + 1) =
    (rotl28 (keyHalves key r).1 (shifts.getD r 0), rotl28 (keyHalves key r).2 (shifts.getD r 0)) := rfl

/-- R124: after `n` rounds each half is that of PC1 of the key, rotated by the first `n` shifts in all. -/
theorem keyHalves_eq_rotateLeft (key : Block) {n : Nat} (hn : n ≤ 16) :
    keyHalves key n =
      ((keyHalves key 0).1.rotateLeft (shifts.take n).sum, (keyHalves key 0).2.rotateLeft (shifts.take n).sum) := by
  induction n with
  | zero => rw [List.take_zero, List.sum_nil, rotateLeft_zero, rotateLeft_zero]
  | succ r ih =>
    rw [keyHalves_succ, ih (by omega), sum_take_shifts_succ hn]
    simp only [rotl28_eq_rotateLeft _ (shifts_getD_lt hn), rotateLeft_rotateLeft]

theorem deriveRoundKeys_getElem (key : Block) {r : Nat} (hr : r < 16) : (deriveRoundKeys key)[r] = roundKey key r := by
  interval_cases r <;> rfl

/-- Settles O25: the halves at round 0 are those of PC1 of the key, and `roundKey` is PC2 of the halves just rotated. -/
theorem keyHalvesRotateCumulatively : Obligations.KeyHalvesRotateCumulatively :=
  fun key => ⟨fun _ => keyHalves_eq_rotateLeft key, fun r => deriveRoundKeys_getElem key r.isLt⟩

/-- R127: the sixteen shifts add up to the width of a half. -/
theorem keyHalves_sixteen (key : Block) : keyHalves key 16 = keyHalves key 0 := by
  have hsum : (shifts.take 16).sum = 28 := rfl
  rw [keyHalves_eq_rotateLeft key le_rfl, hsum, rotateLeft_width, rotateLeft_width]

theorem append_keyHalves_zero (key : Block) :
    (keyHalves key 0).1 ++ (keyHalves key 0).2 = (permute 56 tablePc1 key : BitVec 56) := by
  rw [keyHalves, BitVec.extractLsb'_append_extractLsb'_eq_extractLsb' (by rfl), BitVec.extractLsb'_eq_self]

/-! ## `KSCHED` -/

/-- Settles O26, by the two cases of `KV`. -/
theorem kschedWritesTheSchedule : Obligations.KschedWritesTheSchedule :=
  ⟨rfl, fun _ hs => ⟨exec_ksched_unloaded hs, exec_ksched_loaded hs⟩⟩

/-- Settles O27: the halves after sixteen rotations are those of PC1, whose concatenation is PC1 itself. -/
theorem kschedLeavesThePc1Halves : Obligations.KschedLeavesThePc1Halves := by
  refine ⟨keyHalves_sixteen, fun s hs hk => ⟨_, exec_ksched_loaded hs hk, ?_⟩⟩
  rw [keyHalves_sixteen]
  exact append_keyHalves_zero s.key

/-! ## The parity bits -/

/-- The mask that clears the least significant bit of each key byte (R128). -/
def parityMask : Block := 0xFEFEFEFEFEFEFEFE

/-- A permutation sees only the positions that its table names. -/
theorem permute_and_mask {n m : Nat} {t : List Nat} {mask : BitVec n} (h : ∀ p ∈ t, mask.getMsbD (p - 1) = true)
    (x : BitVec n) : permute m t (x &&& mask) = permute m t x := by
  have hbits : (t.map fun p => (x &&& mask).getMsbD (p - 1)) = t.map fun p => x.getMsbD (p - 1) :=
    List.map_congr_left fun p hp => by rw [BitVec.getMsbD_and, h p hp, Bool.and_true]
  rw [permute, hbits, permute]

/-- R128: no entry of PC1 is a multiple of 8. -/
theorem permute_pc1_parityMask (key : Block) : permute 56 tablePc1 (key &&& parityMask) = permute 56 tablePc1 key :=
  permute_and_mask (by decide) key

theorem keyHalves_parityMask (key : Block) (n : Nat) : keyHalves (key &&& parityMask) n = keyHalves key n := by
  induction n with
  | zero => rw [keyHalves, permute_pc1_parityMask, keyHalves]
  | succ r ih => rw [keyHalves_succ, ih, keyHalves_succ]

theorem roundKey_parityMask (key : Block) (r : Nat) : roundKey (key &&& parityMask) r = roundKey key r := by
  rw [roundKey, keyHalves_parityMask, roundKey]

theorem deriveRoundKeys_parityMask (key : Block) : deriveRoundKeys (key &&& parityMask) = deriveRoundKeys key := by
  refine Vector.ext fun r hr => ?_
  rw [deriveRoundKeys_getElem _ hr, deriveRoundKeys_getElem _ hr, roundKey_parityMask]

/-- Settles O28: the schedule is that of the masked key, and a load tests the length and the digits only. -/
theorem parityBitsHaveNoEffect : Obligations.ParityBitsHaveNoEffect := by
  refine ⟨fun key key' hmask => ?schedule, fun s hs => ⟨fun hlen => ?raw, fun hlen hdigits => ?hex⟩⟩
  case schedule =>
    have hmask' : key &&& parityMask = key' &&& parityMask := hmask
    have hkeys : deriveRoundKeys key = deriveRoundKeys key' := by
      rw [← deriveRoundKeys_parityMask key, hmask', deriveRoundKeys_parityMask]
    have hhalves : keyHalves key 16 = keyHalves key' 16 := by
      rw [← keyHalves_parityMask key, hmask', keyHalves_parityMask]
    exact ⟨hkeys, hhalves, fun x => by rw [hkeys]⟩
  case raw => exact ⟨_, exec_ldkeyRaw hs hlen, (loadKey_errf _ s).trans hs⟩
  case hex => exact ⟨_, exec_ldkeyHex_kin hs hlen (validKeyText_kin hlen hdigits), (loadKey_errf _ s).trans hs⟩

end Sys2Proof

/-! # Rounds and blocks

The six commands have one rule each (`exec_round`, `exec_split`, ...). The rounds of an expansion with a `SWAP` between them run
`feistelRounds` on the two halves (`runCommands_rounds`), so an expansion writes what its block command writes
(`runCommands_blockExpansion`). -/

namespace Sys2Proof

open Machine

/-! ## Sequences of commands -/

theorem runCommands_cons {i : Instr} {is : List Instr} {s t : State} (h : exec i s = .next t) :
    runCommands (i :: is) s = runCommands is t := by rw [runCommands, h]

theorem runCommands_append {is js : List Instr} {s t : State} (h : runCommands is s = .next t) :
    runCommands (is ++ js) s = runCommands js t := by
  induction is generalizing s with
  | nil => cases h; rfl
  | cons i is ih =>
    obtain ⟨u, hu⟩ := exec_next i s
    rw [runCommands_cons hu] at h
    rw [List.cons_append, runCommands_cons hu, ih h]

theorem runCommands_pair {i j : Instr} {s t u : State} (hi : exec i s = .next t) (hj : exec j t = .next u) :
    runCommands [i, j] s = .next u := by rw [runCommands_cons hi, runCommands_cons hj, runCommands]

/-! ## The round commands -/

/-- The state with other halves in `L` and `R`, which `ROUND k`, `SPLIT` and `SWAP` leave. -/
def withHalves (h : Half × Half) (s : State) : State := { s with l := h.1, r := h.2 }

/-- R141. -/
theorem exec_round {k : Fin 16} {s : State} (hs : s.errf = false) (hr : s.rkv = true) :
    exec (.round k) s = .next (withHalves (s.l ^^^ roundF s.r s.rk[k], s.r) s) := by
  rw [exec, execRound, unlessFaulted_clear hs, withSchedule_valid hr, withHalves]

/-- R142. -/
theorem exec_split {s : State} (hs : s.errf = false) :
    exec .split s = .next (withHalves (s.w.extractLsb' 32 32, s.w.extractLsb' 0 32) s) := by
  rw [exec, execSplit, unlessFaulted_clear hs, withHalves]

/-- R143. -/
theorem exec_swap {s : State} (hs : s.errf = false) : exec .swap s = .next (withHalves (s.r, s.l) s) := by
  rw [exec, execSwap, unlessFaulted_clear hs, withHalves]

/-- R144. -/
theorem exec_join {s : State} (hs : s.errf = false) : exec .join s = .next { s with w := s.l ++ s.r } := by
  rw [exec, execJoin, unlessFaulted_clear hs]

/-- A round on the halves `h`. -/
theorem exec_round_withHalves {k : Fin 16} (h : Half × Half) {s : State} (hs : s.errf = false) (hr : s.rkv = true) :
    exec (.round k) (withHalves h s) = .next (withHalves (h.1 ^^^ roundF h.2 s.rk[k], h.2) s) := exec_round hs hr

theorem exec_swap_withHalves (h : Half × Half) {s : State} (hs : s.errf = false) :
    exec .swap (withHalves h s) = .next (withHalves h.swap s) := exec_swap hs

/-- Settles O30, by the two cases of `RKV`. -/
theorem roundXorsTheRoundFunction : Obligations.RoundXorsTheRoundFunction :=
  ⟨by decide, fun _ _ hs => ⟨exec_unscheduled hs rfl, exec_round hs⟩⟩

theorem xor_roundF_xor_roundF (l r : Half) (k : RoundKey) : l ^^^ roundF r k ^^^ roundF r k = l := by
  rw [BitVec.xor_assoc, BitVec.xor_self, BitVec.xor_zero]

/-- Settles O31: the second round adds the same value, since the first leaves `R` and the round keys. -/
theorem roundTwiceRestores : Obligations.RoundTwiceRestores := by
  refine ⟨xor_roundF_xor_roundF, fun k s hs hr => ⟨_, exec_round hs hr, ?_⟩⟩
  rw [exec_round_withHalves _ hs hr, xor_roundF_xor_roundF]
  rfl

/-- Settles O32: what is moved apart and put together again is the same block, or the same halves. -/
theorem halvesCommandsMoveHalves : Obligations.HalvesCommandsMoveHalves := by
  refine ⟨by decide, fun s hs => ⟨⟨exec_split hs, exec_swap hs, exec_join hs⟩, ?splitJoin, ?joinSplit, ?swapSwap⟩⟩
  case splitJoin => exact ⟨_, runCommands_pair (exec_split hs) (exec_join hs), halves_append s.w⟩
  case joinSplit =>
    obtain ⟨hl, hr⟩ := Prod.mk.inj (append_halves s.l s.r)
    exact ⟨_, runCommands_pair (exec_join hs) (exec_split hs), hl, hr⟩
  case swapSwap => exact runCommands_pair (exec_swap hs) (exec_swap hs)

/-! ## The block commands -/

/-- R147. -/
theorem exec_encblk {s : State} (hs : s.errf = false) (hr : s.rkv = true) :
    exec .encblk s = .next (s.setBlock (feistel16 s.w (forwardKeys s.rk))) := by
  rw [exec, execEncblk, unlessFaulted_clear hs, withSchedule_valid hr]

/-- R148. -/
theorem exec_decblk {s : State} (hs : s.errf = false) (hr : s.rkv = true) :
    exec .decblk s = .next (s.setBlock (feistel16 s.w (backwardKeys s.rk))) := by
  rw [exec, execDecblk, unlessFaulted_clear hs, withSchedule_valid hr]

/-- R146: the round keys of encryption are those the rounds 0 to 15 read. -/
theorem forwardKeys_eq_map (rk : Vector RoundKey 16) : forwardKeys rk = scheduleOrder.map (rk[·]) := by
  have horder : scheduleOrder = List.finRange 16 := by decide
  rw [forwardKeys, horder]
  exact List.ext_getElem (by simp) fun n _ _ => by simp

/-- R146: the round keys of decryption are those the rounds 15 to 0 read. -/
theorem backwardKeys_eq_map (rk : Vector RoundKey 16) : backwardKeys rk = scheduleOrder.reverse.map (rk[·]) := by
  rw [List.map_reverse, ← forwardKeys_eq_map, backwardKeys, forwardKeys]

/-- Settles O34, by the two cases of `RKV`; the key orders written out are those of the schedule indices. -/
theorem blockCommandsTransformW : Obligations.BlockCommandsTransformW := by
  refine ⟨by decide, fun s hs => ⟨fun hr => ⟨exec_unscheduled hs rfl hr, exec_unscheduled hs rfl hr⟩,
    fun hr => ⟨?forward, ?backward⟩⟩⟩
  case forward => rw [exec_encblk hs hr, forwardKeys_eq_map]; rfl
  case backward => rw [exec_decblk hs hr, backwardKeys_eq_map]; rfl

/-- Settles O33: a swap after every round is undone by taking the final halves the other way round. -/
theorem feistelEquivalentForm : Obligations.FeistelEquivalentForm := by
  intro x ks hks
  have hne : ks ≠ [] := List.ne_nil_of_length_pos (by omega)
  rw [feistel16, feistelRounds_eq_foldl hne]
  rfl

/-! ## Decryption and encryption -/

theorem backwardKeys_ne_nil (rk : Vector RoundKey 16) : backwardKeys rk ≠ [] :=
  List.reverse_ne_nil_iff.mpr (forwardKeys_ne_nil rk)

/-- R150: encryption inverts decryption. -/
@[simp] theorem desEnc_desDec (rk : Vector RoundKey 16) (x : Block) : desEnc rk (desDec rk x) = x := by
  have h := feistel16_reverse (backwardKeys_ne_nil rk) x
  rwa [backwardKeys, List.reverse_reverse] at h

/-- Settles O35: the second command reads the result of the first under the same round keys. -/
theorem blockRoundTrip : Obligations.BlockRoundTrip :=
  ⟨fun rk x => ⟨desDec_desEnc rk x, desEnc_desDec rk x⟩, fun s hs hr =>
    ⟨⟨_, runCommands_pair (exec_encblk hs hr) (exec_decblk hs hr), desDec_desEnc s.rk s.w⟩,
      ⟨_, runCommands_pair (exec_decblk hs hr) (exec_encblk hs hr), desEnc_desDec s.rk s.w⟩⟩⟩

/-- Settles O37: both states run `feistel16` on the same arguments. -/
theorem blockDependsOnWAndKeysOnly : Obligations.BlockDependsOnWAndKeysOnly := by
  intro i s s' hi hs hs' hr hr' hw hk
  rcases hi with rfl | rfl
  · exact ⟨_, _, exec_encblk hs hr, exec_encblk hs' hr', by simp [hw, hk]⟩
  · exact ⟨_, _, exec_decblk hs hr, exec_decblk hs' hr', by simp [hw, hk]⟩

/-! ## A block command and its expansion -/

/-- The rounds of an expansion, with a `SWAP` between them, run `feistelRounds` on the halves. -/
theorem runCommands_rounds (ks : List (Fin 16)) (h : Half × Half) {s : State} (hs : s.errf = false)
    (hr : s.rkv = true) : runCommands ((ks.map Instr.round).intersperse .swap) (withHalves h s) =
      .next (withHalves (feistelRounds (ks.map (s.rk[·])) h) s) := by
  induction ks generalizing h with
  | nil => rfl
  | cons k ks ih =>
    cases ks with
    | nil => exact runCommands_cons (exec_round_withHalves h hs hr)
    | cons k' ks =>
      calc runCommands (.round k :: .swap :: ((k' :: ks).map Instr.round).intersperse .swap) (withHalves h s)
        _ = runCommands (((k' :: ks).map Instr.round).intersperse .swap) (withHalves (swapRound h s.rk[k]) s) :=
            (runCommands_cons (exec_round_withHalves h hs hr)).trans (runCommands_cons (exec_swap_withHalves _ hs))
        _ = .next (withHalves (feistelRounds ((k' :: ks).map (s.rk[·])) (swapRound h s.rk[k])) s) := ih _

/-- R151 for any sequence of schedule indices. -/
theorem runCommands_blockExpansion (ks : List (Fin 16)) {s : State} (hs : s.errf = false) (hr : s.rkv = true) :
    runCommands (blockExpansion ks) s = .next (s.setBlock (feistel16 s.w (ks.map (s.rk[·])))) := by
  have hsplit : runCommands [.permIp, .split] s = .next (withHalves _ { s with w := permute 64 tableIp s.w }) :=
    runCommands_pair (permuteW_clear_block hs) (exec_split hs)
  have hrounds := (runCommands_append hsplit).trans (runCommands_rounds ks _ hs hr)
  exact (runCommands_append hrounds).trans (runCommands_pair (exec_join hs) (permuteW_clear_block hs))

/-- Settles O36, for the schedule indices in either order. -/
theorem blockCommandsEqualPrimitives : Obligations.BlockCommandsEqualPrimitives := by
  refine ⟨by decide, fun s hs hr => ⟨?_, ?_⟩⟩
  · rw [runCommands_blockExpansion _ hs hr, exec_encblk hs hr, forwardKeys_eq_map]
  · rw [runCommands_blockExpansion _ hs hr, exec_decblk hs hr, backwardKeys_eq_map]

end Sys2Proof

/-! # Padding and streams

A stream command answers with its bytes in `OBUF` (`PutsOut`) or with a fault. What `UNPAD` and `DECBYTES` do with a stream of whole
chunks is said once (`outputUnpadded_cases`); chunk `j` of a mapped stream is the mapped chunk `j` (`mapChunks_chunk`), and equal
bytes in give equal bytes out (`SameAnswer`). -/

namespace Sys2Proof

open Machine

/-! ## Bytes of a buffer -/

/-- Reading two stretches gives the same bytes exactly when they agree byte by byte. -/
theorem bufferReadBytes_eq_iff {space space' : Space} {buf buf' : Buffer} {a a' n : Nat} :
    bufferReadBytes space buf a n = bufferReadBytes space' buf' a' n ↔
      ∀ i, i < n → bufferRead space buf (a + i) = bufferRead space' buf' (a' + i) := by
  simp [bufferReadBytes]

theorem bufferReadBytes_getD (space : Space) (buf : Buffer) (a : Nat) {n j : Nat} (hj : j < n) :
    (bufferReadBytes space buf a n).getD j 0 = bufferRead space buf (a + j) := by
  rw [List.getD_eq_getElem?_getD, bufferReadBytes_getElem? _ _ _ _ _ hj, Option.getD_some]

/-- A stretch of the bytes read is the reading of that stretch. -/
theorem take_drop_bufferReadBytes (space : Space) (buf : Buffer) {a n m : Nat} (h : a + n ≤ m) :
    ((bufferReadBytes space buf 0 m).drop a).take n = bufferReadBytes space buf a n := by
  refine List.ext_getElem (by simp; omega) fun j _ _ => ?_
  simp [bufferReadBytes]

theorem input_getD {s : State} {j : Nat} (hj : j < s.ilen.toNat) : s.input.getD j 0 = bufferRead .ibuf s.ibuf j := by
  rw [State.input, bufferReadBytes_getD _ _ _ hj, Nat.zero_add]

theorem input_eq_of_bytes {s s' : State} (hlen : s.ilen = s'.ilen)
    (h : ∀ j, j < s.ilen.toNat → bufferRead .ibuf s.ibuf j = bufferRead .ibuf s'.ibuf j) : s.input = s'.input := by
  rw [State.input, State.input, ← hlen, bufferReadBytes_eq_iff]
  simpa using h

/-! ## The output of a stream command -/

@[simp] theorem output_errf (bs : List Byte) (s : State) : (s.output bs).errf = s.errf := rfl

theorem olen_output {bs : List Byte} {s : State} (h : bs.length < 2 ^ 32) : (s.output bs).olen.toNat = bs.length := by
  rw [State.output_olen, BitVec.toNat_ofNat, Nat.mod_eq_of_lt h]

theorem bufferReadBytes_output (bs : List Byte) (s : State) {a n : Nat} (h : a + n ≤ bs.length) :
    bufferReadBytes .obuf (s.output bs).obuf a n = (bs.drop a).take n := by
  have hall : bufferReadBytes .obuf (s.output bs).obuf 0 bs.length = bs := bufferReadBytes_bufferWriteBytes ..
  rw [← take_drop_bufferReadBytes _ _ h, hall]

/-- `t` is `s` with these bytes put out and nothing else changed (R51, R166). -/
structure PutsOut (bs : List Byte) (s t : State) : Prop where
  frame : t = { s with obuf := t.obuf, olen := t.olen }
  olen : t.olen.toNat = bs.length
  bytes : ∀ j, j < t.olen.toNat → bufferRead .obuf t.obuf j = bs.getD j 0
  beyond : ∀ j, t.olen.toNat ≤ j → memoryRead t.obuf.cells j = none

theorem putsOut_output {bs : List Byte} {s : State} (h : bs.length < 2 ^ 32) : PutsOut bs s (s.output bs) where
  frame := rfl
  olen := olen_output h
  bytes j hj := bufferRead_output bs s j (olen_output (s := s) h ▸ hj)
  beyond j hj := by
    rw [memoryRead_output]
    exact List.getElem?_eq_none (olen_output (s := s) h ▸ hj)

/-- A padded input, and a ciphertext of one, fits `OLEN` (R5, R50). -/
theorem paddedLength_lt {s : State} (h : s.ilen.toNat ≤ s.bufMax) : 8 * (s.ilen.toNat / 8 + 1) < 2 ^ 32 := by
  obtain ⟨-, hmax, -⟩ := bufMax_legal s
  omega

/-! ## Padding -/

theorem padCount_bounds (n : Nat) : 1 ≤ padCount n ∧ padCount n ≤ 8 := by
  rw [padCount]
  omega

/-- Settles O38: the count is `padCount`. -/
theorem padAppendsItsCount : Obligations.PadAppendsItsCount := by
  intro s
  obtain ⟨hpos, hle⟩ := padCount_bounds s.length
  exact ⟨padCount s.length, hpos, hle, rfl, rfl, pad8_length s, fun h => by rw [padCount, h]⟩

/-- A byte of a padded stream is one of the stream or the count. -/
theorem pad8_getD (bs : List Byte) {j : Nat} (hj : j < (pad8 bs).length) : (pad8 bs).getD j 0 =
    if j < bs.length then bs.getD j 0 else BitVec.ofNat 8 (padCount bs.length) := by
  rw [pad8, List.length_append, List.length_replicate] at hj
  split
  · rw [pad8, List.getD_append _ _ _ _ ‹_›]
  · rw [pad8, List.getD_append_right _ _ _ _ (by omega)]
    exact List.getD_replicate _ (by omega)

theorem take_drop_pad8 (bs : List Byte) {a n : Nat} (h : a + n ≤ bs.length) :
    ((pad8 bs).drop a).take n = (bs.drop a).take n := by
  rw [pad8, List.drop_append_of_le_length (by omega), List.take_append_of_le_length (by rw [List.length_drop]; omega)]

theorem exec_pad {s : State} (hs : s.errf = false) : exec .pad s = .next (s.output (pad8 s.input)) := by
  rw [exec, execPad, unlessFaulted_clear hs]

/-- Settles O40: the bytes put out are those of `pad8` of the input. -/
theorem padWritesThePaddedInput : Obligations.PadWritesThePaddedInput := by
  refine ⟨rfl, fun s hs hlen => ?_⟩
  have hpad : (pad8 s.input).length = 8 * (s.ilen.toNat / 8 + 1) := by rw [pad8_length, input_length]
  have hout : PutsOut (pad8 s.input) s (s.output (pad8 s.input)) := putsOut_output (hpad ▸ paddedLength_lt hlen)
  refine ⟨_, exec_pad hs, hout.frame, hout.olen.trans hpad, fun j hj => ?copied, fun j hge hlt => ?padding, hout.beyond⟩
  case copied =>
    have hj' : j < (s.output (pad8 s.input)).olen.toNat := by rw [hout.olen]; omega
    rw [hout.bytes j hj', pad8_getD _ (hout.olen ▸ hj'), input_length, if_pos hj, input_getD hj]
  case padding =>
    obtain ⟨-, hk⟩ := padCount_bounds s.ilen.toNat
    rw [hout.bytes j hlt, pad8_getD _ (hout.olen ▸ hlt), input_length, if_neg (by omega), BitVec.toNat_ofNat,
      Nat.mod_eq_of_lt (by omega), padCount]

/-! ## Unpadding -/

theorem unpad8_length {bs : List Byte} (h : bs.length % 8 ≠ 0) : unpad8 bs = .error .malformedLength := by
  rw [unpad8, if_pos h]

section

variable {bs : List Byte} (hlen : bs.length % 8 = 0) (hne : bs.length ≠ 0)

include hlen hne

theorem unpad8_pad (hk : (bs.getD (bs.length - 1) 0).toNat = 0 ∨ 8 < (bs.getD (bs.length - 1) 0).toNat) :
    unpad8 bs = .error .malformedPad := by
  rw [unpad8, if_neg (not_not_intro hlen), if_neg hne]
  exact if_pos (by omega)

theorem unpad8_strips (hpos : 1 ≤ (bs.getD (bs.length - 1) 0).toNat) (hle : (bs.getD (bs.length - 1) 0).toNat ≤ 8) :
    unpad8 bs = .ok (bs.take (bs.length - (bs.getD (bs.length - 1) 0).toNat)) := by
  rw [unpad8, if_neg (not_not_intro hlen), if_neg hne]
  exact if_neg (by omega)

end

/-- Settles O39: each failure, and the stripping, is decided by the length and the last byte. -/
theorem unpadLooksAtTheLastByte : Obligations.UnpadLooksAtTheLastByte := by
  refine ⟨unpad8_pad8, fun s => ⟨unpad8_length, fun h => ?_, fun u b hsu hlen => ?_⟩⟩
  · rw [List.eq_nil_of_length_eq_zero h]; rfl
  · have hne : s.length ≠ 0 := by simp [hsu]
    have hlast : s.getD (s.length - 1) 0 = b := by simp [hsu]
    have hzero : b = 0 → b.toNat = 0 := fun h => by rw [h]; rfl
    rw [← hlast] at hzero ⊢
    exact ⟨fun hk => unpad8_pad hlen hne (hk.imp_left hzero), unpad8_strips hlen hne⟩

/-- R168: at least one byte and at most eight are stripped. -/
theorem unpad8_ok_length {bs u : List Byte} (h : unpad8 bs = .ok u) :
    u.length + 1 ≤ bs.length ∧ bs.length ≤ u.length + 8 := by
  rw [unpad8] at h
  split at h
  · cases h
  · split at h
    · cases h
    · dsimp only at h
      split at h
      · cases h
      · cases h
        rw [List.length_take]
        omega

/-- An end of `UNPAD` or `DECBYTES` that records no fault puts out the unpadded stream. -/
theorem outputUnpadded_succeeds {bs : List Byte} {s : State} (h : (s.outputUnpadded bs).errf = false) :
    ∃ u, unpad8 bs = .ok u ∧ s.outputUnpadded bs = s.output u := by
  rw [State.outputUnpadded] at h ⊢
  rcases unpad8_cases bs with ⟨e, he, hcase⟩ | ⟨n, hn⟩
  · rw [he] at h
    have hclear : e ≠ .clear := by rcases hcase with rfl | rfl | rfl <;> nofun
    exact absurd (h.symm.trans (raise_errf e s hclear)) nofun
  · exact ⟨_, hn, by rw [hn]⟩

/-- What `UNPAD` and `DECBYTES` do with a stream as long as the input, of whole chunks and not empty: its last byte `k` decides
(R163, R165). -/
theorem outputUnpadded_blocks {bs : List Byte} {s : State} (hbs : bs.length = s.ilen.toNat)
    (hlen : s.ilen.toNat % 8 = 0) (hne : s.ilen ≠ 0) {k : Nat} (hlast : (bs.getD (s.ilen.toNat - 1) 0).toNat = k) :
    (k = 0 ∨ 8 < k → s.outputUnpadded bs = s.raise .malformedPad) ∧
    (1 ≤ k → k ≤ 8 → ∃ t, s.outputUnpadded bs = t ∧ t = { s with obuf := t.obuf, olen := t.olen } ∧
      t.olen.toNat = s.ilen.toNat - k ∧ (∀ j, j < t.olen.toNat → bufferRead .obuf t.obuf j = bs.getD j 0) ∧
      ∀ j, t.olen.toNat ≤ j → memoryRead t.obuf.cells j = none) := by
  have hne' : s.ilen.toNat ≠ 0 := fun h => hne (BitVec.eq_of_toNat_eq h)
  have hlt := s.ilen.isLt
  rw [← hbs] at hlen hne' hlast hlt ⊢
  subst hlast
  refine ⟨fun hk => ?pad, fun hpos hle => ?strips⟩
  case pad => rw [State.outputUnpadded, unpad8_pad hlen hne' hk]
  case strips =>
    have htake : (bs.take (bs.length - (bs.getD (bs.length - 1) 0).toNat)).length =
        bs.length - (bs.getD (bs.length - 1) 0).toNat := by rw [List.length_take]; omega
    have hout : PutsOut _ s (s.output (bs.take (bs.length - (bs.getD (bs.length - 1) 0).toNat))) :=
      putsOut_output (by omega)
    refine ⟨_, ?_, hout.frame, hout.olen.trans htake, fun j hj => ?_, hout.beyond⟩
    · rw [State.outputUnpadded, unpad8_strips hlen hne' hpos hle]
    · rw [hout.bytes j hj, List.getD_eq_getElem?_getD, List.getElem?_take_of_lt (by rw [← htake, ← hout.olen]; exact hj),
        List.getD_eq_getElem?_getD]

theorem exec_unpad {s : State} (hs : s.errf = false) : exec .unpad s = .next (s.outputUnpadded s.input) := by
  rw [exec, execUnpad, unlessFaulted_clear hs]

/-- Settles O41: `outputUnpadded` of the input, and its failures in the order of `unpad8`. -/
theorem unpadStripsOrFaults : Obligations.UnpadStripsOrFaults := by
  refine ⟨rfl, fun s hs => ?_⟩
  rw [exec_unpad hs]
  refine ⟨fun hlen => congrArg _ ?length, fun hempty => congrArg _ ?empty, fun hlen hne => ?blocks⟩
  case length => rw [State.outputUnpadded, unpad8_length (by rwa [input_length])]
  case empty =>
    have hnil : s.input = [] := List.eq_nil_of_length_eq_zero (by rw [input_length, hempty]; rfl)
    rw [hnil]
    rfl
  case blocks =>
    have hpos : s.ilen.toNat ≠ 0 := fun h => hne (BitVec.eq_of_toNat_eq h)
    obtain ⟨hpad, hstrips⟩ := outputUnpadded_blocks (input_length s) hlen hne
      (congrArg BitVec.toNat (input_getD (show s.ilen.toNat - 1 < s.ilen.toNat by omega)))
    refine ⟨fun hk => congrArg _ (hpad hk), fun hk hk8 => ?_⟩
    obtain ⟨t, ht, hframe, holen, hbytes, hbeyond⟩ := hstrips hk hk8
    exact ⟨t, congrArg _ ht, hframe, holen, fun j hj => by rw [hbytes j hj, input_getD (by omega)], hbeyond⟩

/-! ## The chunks of a stream -/

/-- Chunk `j` of a mapped stream is chunk `j` of the stream, mapped (R55). -/
theorem mapChunks_chunk (g : Block → Block) {m j : Nat} (hj : j < m) (bs : List Byte) :
    ((mapChunks g m bs).drop (8 * j)).take 8 = bytes8 (g (be64 ((bs.drop (8 * j)).take 8))) := by
  induction m generalizing j bs with
  | zero => exact absurd hj (Nat.not_lt_zero j)
  | succ m ih =>
    cases j with
    | zero => exact List.take_left' (bytes8_length _)
    | succ j =>
      rw [mapChunks, Nat.mul_succ, Nat.add_comm, ← List.drop_drop, List.drop_left' (bytes8_length _), ← List.drop_drop]
      exact ih (Nat.lt_of_succ_lt_succ hj) _

/-- A mapped stream is its mapped chunks in order (R55). -/
theorem mapChunks_eq_flatMap (g : Block → Block) (m : Nat) (bs : List Byte) :
    mapChunks g m bs = (List.range m).flatMap fun j => bytes8 (g (be64 ((bs.drop (8 * j)).take 8))) := by
  induction m generalizing bs with
  | zero => rfl
  | succ m ih =>
    rw [mapChunks, ih, List.range_succ_eq_map, List.flatMap_cons, List.flatMap_map]
    simp only [List.drop_drop, Nat.mul_succ, Nat.add_comm, Nat.mul_zero, List.drop_zero]

/-- Chunk `j` that `ENCBYTES` puts out (R164). -/
theorem bufferReadBytes_output_encryptStream (rk : Vector RoundKey 16) (bs : List Byte) (s : State) {j : Nat}
    (hj : j < bs.length / 8 + 1) : bufferReadBytes .obuf (s.output (encryptStream rk bs)).obuf (8 * j) 8 =
      bytes8 (desEnc rk (be64 (((pad8 bs).drop (8 * j)).take 8))) := by
  rw [bufferReadBytes_output _ _ (by rw [encryptStream_length]; omega), encryptStream]
  exact mapChunks_chunk _ (by rw [pad8_length]; omega) _

/-! ## `ENCBYTES` and `DECBYTES` -/

/-- Settles O42: the bytes put out are those of `encryptStream`. -/
theorem encbytesEncryptsEveryChunk : Obligations.EncbytesEncryptsEveryChunk := by
  refine ⟨rfl, fun s hs => ⟨exec_unscheduled hs rfl, fun hr hlen => ?_⟩⟩
  have henc : (encryptStream s.rk s.input).length = 8 * (s.ilen.toNat / 8 + 1) := by
    rw [encryptStream_length, input_length]
  have hout : PutsOut _ s (s.output (encryptStream s.rk s.input)) := putsOut_output (henc ▸ paddedLength_lt hlen)
  exact ⟨_, exec_encbytes hs hr, hout.frame, hout.olen.trans henc,
    fun j hj => bufferReadBytes_output_encryptStream _ _ s (by rwa [input_length]), hout.beyond⟩

theorem decryptStream_input_length {s : State} (h : s.ilen.toNat % 8 = 0) :
    (decryptStream s.rk s.input).length = s.ilen.toNat := by
  rw [decryptStream, mapChunks_length, input_length]
  omega

/-- Settles O43: the decrypted stream is its chunks in order, and its last byte decides. -/
theorem decbytesDecryptsAndStrips : Obligations.DecbytesDecryptsAndStrips := by
  refine ⟨rfl, fun s hs => ⟨exec_unscheduled hs rfl, exec_decbytes_length hs, exec_decbytes_empty hs,
    fun hr hlen hne => ?_⟩⟩
  rw [exec_decbytes_blocks hs hr hlen hne]
  intro full k
  have hfull : decryptStream s.rk s.input = full := by rw [decryptStream, input_length, mapChunks_eq_flatMap]
  rw [hfull]
  obtain ⟨hpad, hstrips⟩ := outputUnpadded_blocks (hfull ▸ decryptStream_input_length hlen) hlen hne (k := k) rfl
  refine ⟨fun hk => congrArg _ (hpad hk), fun hk hk8 => ?_⟩
  obtain ⟨t, ht, hout⟩ := hstrips hk hk8
  exact ⟨t, congrArg _ ht, hout⟩

/-- Settles O44: a stream command does nothing, records a fault or puts out its bytes. -/
theorem streamCommandsWriteOutputOnly : Obligations.StreamCommandsWriteOutputOnly := by
  intro i s t hi h
  cases hs : s.errf with
  | true =>
    have hne : i ≠ .clrerr := by rintro rfl; cases hi
    rw [exec_faulted hne hs] at h
    cases h
    exact ⟨rfl, fun _ => rfl, fun _ => rfl, fun _ => rfl⟩
  | false =>
    rcases (exec_registerEffect h).stream_cases hs hi with ⟨e, he, rfl⟩ | ⟨bs, rfl⟩
    · refine ⟨rfl, fun _ => rfl, fun _ => rfl, fun ht => ?_⟩
      exact absurd (ht.symm.trans (raise_raisable_errf he s)) nofun
    · exact ⟨rfl, fun _ => rfl, fun _ => rfl, fun _ => rfl⟩

/-! ## The round trip -/

/-- No command writes the input (R30, R50). -/
theorem exec_input {i : Instr} {s t : State} (h : exec i s = .next t) : t.input = s.input := by
  obtain ⟨-, hilen, -⟩ := (exec_registerEffect h).host_fields
  obtain ⟨-, hibuf⟩ := (exec_registerEffect h).input_buffers
  rw [State.input, State.input, hilen, hibuf]

/-- After a successful key load, `KSCHED` and `ENCBYTES` put out the encrypted input under the schedule they leave (R167). -/
theorem runCommands_ksched_encbytes {s : State} (hs : s.errf = false) (hk : s.kv = true) : ∃ u : State,
    runCommands [.ksched, .encbytes] s = .next (u.output (encryptStream u.rk s.input)) ∧ u.errf = false := by
  obtain ⟨u, hsched, hu, hr⟩ : ∃ u, exec .ksched s = .next u ∧ u.errf = false ∧ u.rkv = true :=
    ⟨_, exec_ksched_loaded hs hk, hs, rfl⟩
  have henc := exec_encbytes hu hr
  rw [exec_input hsched] at henc
  exact ⟨u, runCommands_pair hsched henc, hu⟩

/-- The input read from the copied output of a stream command is what it put out. -/
theorem input_of_output {bs : List Byte} {s u : State} (hbs : bs.length < 2 ^ 32) (hlen : u.ilen = (s.output bs).olen)
    (h : ∀ j, j < (s.output bs).olen.toNat →
      bufferRead .ibuf u.ibuf j = bufferRead .obuf (s.output bs).obuf j) : u.input = bs := by
  rw [olen_output hbs] at h
  have hread : u.input = bufferReadBytes .obuf (s.output bs).obuf 0 bs.length := by
    rw [State.input, hlen, olen_output hbs, bufferReadBytes_eq_iff]
    simpa using h
  rw [hread, bufferReadBytes_output _ _ (by omega), List.drop_zero, List.take_length]

/-- Settles O45: the ciphertext read back is decrypted to the plaintext. -/
theorem streamRoundTrip : Obligations.StreamRoundTrip := by
  intro s s₁ hs hload hs₁ hlen
  obtain ⟨i, hi, hload⟩ : ∃ i, (i = .ldkeyHex ∨ i = .ldkeyRaw) ∧ exec i s = .next s₁ :=
    hload.elim (⟨_, .inl rfl, ·⟩) (⟨_, .inr rfl, ·⟩)
  obtain ⟨hkv, -⟩ := (exec_registerEffect hload).ldkey_succeeds hi hs hs₁
  obtain ⟨t, hrun, ht⟩ := runCommands_ksched_encbytes hs₁ hkv
  rw [exec_input hload] at hrun
  refine ⟨_, hrun, ht, fun u hu hr hrk hilen hbytes => ?_⟩
  have hfit : (encryptStream t.rk s.input).length < 2 ^ 32 := by
    rw [encryptStream_length, input_length]
    exact paddedLength_lt hlen
  have hin : u.input = encryptStream u.rk s.input := by
    rw [input_of_output hfit hilen hbytes, hrk, State.output_rk]
  refine ⟨_, exec_decbytes_encryptStream hu hr hin, hu, ?_, fun j hj => ?_⟩
  · rw [State.output_olen, input_length, BitVec.ofNat_toNat, BitVec.setWidth_eq]
  · rw [bufferRead_output _ _ _ (by rwa [input_length]), input_getD hj]

/-! ## Lengths -/

/-- A command that needs the schedule and records no fault has found it (R195). -/
theorem rkv_of_succeeds {i : Instr} {s t : State} (hs : s.errf = false) (hi : needsSchedule i = true)
    (h : exec i s = .next t) (ht : t.errf = false) : s.rkv = true := by
  by_contra hr
  rw [exec_unscheduled hs hi (Bool.eq_false_iff.mpr hr)] at h
  cases h
  exact absurd ht nofun

/-- A `DECBYTES` that records no fault has put out the unpadded decrypted stream of whole chunks (R165). -/
theorem exec_decbytes_succeeds {s t : State} (hs : s.errf = false) (h : exec .decbytes s = .next t)
    (ht : t.errf = false) : s.ilen.toNat % 8 = 0 ∧ ∃ u, unpad8 (decryptStream s.rk s.input) = .ok u ∧ t = s.output u := by
  have hr := rkv_of_succeeds hs rfl h ht
  by_cases hlen : s.ilen.toNat % 8 = 0
  · by_cases hne : s.ilen = 0
    · rw [exec_decbytes_empty hs hr hne] at h
      cases h
      exact absurd ht nofun
    · rw [exec_decbytes_blocks hs hr hlen hne] at h
      cases h
      exact ⟨hlen, outputUnpadded_succeeds ht⟩
  · rw [exec_decbytes_length hs hr hlen] at h
    cases h
    exact absurd ht nofun

/-- Settles O47: a success puts out a stream of known length. -/
theorem streamLengths : Obligations.StreamLengths := by
  refine fun s t hs hlen ht => ⟨fun h => ?encrypted, fun h => ?decrypted⟩
  case encrypted =>
    rw [exec_encbytes hs (rkv_of_succeeds hs rfl h ht)] at h
    cases h
    rw [olen_output (by rw [encryptStream_length, input_length]; exact paddedLength_lt hlen), encryptStream_length,
      input_length]
    omega
  case decrypted =>
    obtain ⟨hmod, u, hu, rfl⟩ := exec_decbytes_succeeds hs h ht
    obtain ⟨hshort, hlong⟩ := unpad8_ok_length hu
    have hilen := s.ilen.isLt
    rw [decryptStream_input_length hmod] at hshort hlong
    rw [olen_output (by omega)]
    omega

/-! ## Equal inputs and equal chunks -/

/-- Two states answer the same: the same fault or none, and the same bytes put out. -/
structure SameAnswer (t t' : State) : Prop where
  err : t.err = t'.err
  olen : t.olen = t'.olen
  bytes : ∀ j, j < t.olen.toNat → bufferRead .obuf t.obuf j = bufferRead .obuf t'.obuf j

theorem sameAnswer_raise (e : Err) (s s' : State) : SameAnswer (s.raise e) (s'.raise e) where
  err := rfl
  olen := rfl
  bytes _ hj := absurd hj (Nat.not_lt_zero _)

section

variable {s s' : State} (hs : s.errf = false) (hs' : s'.errf = false)

include hs hs'

theorem sameAnswer_output (bs : List Byte) : SameAnswer (s.output bs) (s'.output bs) where
  err := ((errf_eq_false s).mp hs).trans ((errf_eq_false s').mp hs').symm
  olen := rfl
  bytes j hj := by
    have hj' : j < bs.length := Nat.lt_of_lt_of_le hj (Nat.mod_le ..)
    rw [bufferRead_output _ _ _ hj', bufferRead_output _ _ _ hj']

theorem sameAnswer_outputUnpadded (bs : List Byte) : SameAnswer (s.outputUnpadded bs) (s'.outputUnpadded bs) := by
  rw [State.outputUnpadded, State.outputUnpadded]
  cases unpad8 bs with
  | error e => exact sameAnswer_raise e s s'
  | ok u => exact sameAnswer_output hs hs' u

/-- R170: `ENCBYTES` and `DECBYTES` read the input and the round keys only. -/
theorem exec_sameAnswer {i : Instr} (hi : i = .encbytes ∨ i = .decbytes) (hr : s.rkv = true) (hr' : s'.rkv = true)
    (hrk : s.rk = s'.rk) (hlen : s.ilen = s'.ilen) (hin : s.input = s'.input) :
    ∃ t t', exec i s = .next t ∧ exec i s' = .next t' ∧ SameAnswer t t' := by
  rcases hi with rfl | rfl
  · refine ⟨_, _, exec_encbytes hs hr, exec_encbytes hs' hr', ?_⟩
    rw [hrk, hin]
    exact sameAnswer_output hs hs' _
  · by_cases hmod : s.ilen.toNat % 8 = 0
    · by_cases hne : s.ilen = 0
      · exact ⟨_, _, exec_decbytes_empty hs hr hne, exec_decbytes_empty hs' hr' (hlen ▸ hne), sameAnswer_raise _ s s'⟩
      · refine ⟨_, _, exec_decbytes_blocks hs hr hmod hne, exec_decbytes_blocks hs' hr' (hlen ▸ hmod) (hlen ▸ hne), ?_⟩
        rw [hrk, hin]
        exact sameAnswer_outputUnpadded hs hs' _
    · exact ⟨_, _, exec_decbytes_length hs hr hmod, exec_decbytes_length hs' hr' (hlen ▸ hmod), sameAnswer_raise _ s s'⟩

end

/-- A full chunk of the padded input is that stretch of `IBUF` (R160). -/
theorem pad8_input_chunk {s : State} {j : Nat} (hj : j < s.ilen.toNat / 8) :
    ((pad8 s.input).drop (8 * j)).take 8 = bufferReadBytes .ibuf s.ibuf (8 * j) 8 := by
  have hle : 8 * j + 8 ≤ s.ilen.toNat := by omega
  rw [take_drop_pad8 _ (by rwa [input_length]), State.input, take_drop_bufferReadBytes _ _ hle]

/-- Settles O48: equal inputs are answered alike, and a chunk put out is a function of the chunk read. -/
theorem streamsAreDeterministicChunkwise : Obligations.StreamsAreDeterministicChunkwise := by
  refine ⟨fun i s s' hi hs hs' hr hr' hrk hlen _ hbytes => ?inputs, fun s a b hs hr _ ha hb hab => ?chunks⟩
  case inputs =>
    obtain ⟨t, t', ht, ht', hsame⟩ := exec_sameAnswer hs hs' hi hr hr' hrk hlen (input_eq_of_bytes hlen hbytes)
    exact ⟨t, t', ht, ht', hsame.err, hsame.olen, hsame.bytes⟩
  case chunks =>
    refine ⟨_, exec_encbytes hs hr, ?_⟩
    rw [← bufferReadBytes_eq_iff] at hab ⊢
    rw [bufferReadBytes_output_encryptStream _ _ _ (by rw [input_length]; omega),
      bufferReadBytes_output_encryptStream _ _ _ (by rw [input_length]; omega), pad8_input_chunk ha, pad8_input_chunk hb,
      hab]

end Sys2Proof

/-! # Command execution and `CLRERR`

Every command answers a next state: `CLRERR` runs unconditionally, and every other command, like an illegal word, either runs its
body or, while a fault is recorded, does nothing. -/

namespace Sys2Proof

open Machine

/-- Settles O5: a command is `CLRERR` or gated, and a value written to `CMD` decodes to a command or is an illegal word. -/
theorem everyCommandCompletes : Obligations.EveryCommandCompletes := ⟨writeCommand_next, exec_next⟩

theorem exec_clrerr_clears {s : State} (h : s.err.code ≠ 4) : exec .clrerr s = .next { s with err := .clear } := by
  rw [exec_clrerr, State.clearError, if_neg h]

theorem exec_clrerr_leaves {s : State} (h : s.err.code = 4) : exec .clrerr s = .next s := by
  rw [exec_clrerr, State.clearError, if_pos h]

/-- `ERRF` as the host reads it in `STATUS` (R27). -/
theorem status_errf (s : State) : s.status.getLsbD 2 = s.errf := by
  obtain ⟨_, _, herrf⟩ := status_bits s
  exact herrf

/-- Settles O11: the two cases of `ERR.CODE` under `CLRERR`, and the gate of every other command. -/
theorem clrerrClearsTheFault : Obligations.ClrerrClearsTheFault := by
  refine ⟨rfl, fun _ => exec_clrerr_clears, fun _ => exec_clrerr_leaves, fun s t hcode hexec => ?errf,
    fun _ _ hs hi => exec_faulted hi hs⟩
  case errf =>
    rw [exec_clrerr_clears hcode] at hexec
    cases hexec
    rw [status_errf]
    rfl

end Sys2Proof

/-! # Faults: entry, priority, clearing

A command that ends with a fault has taken fault entry and done nothing else (`CommandEffect.raised`). No command reads `OLEN` or
`OBUF` (`exec_gated_ignoresOutput`), the only registers that a fault and its clearing change, so a command issued again faults again. -/

namespace Sys2Proof

open Machine

/-! ## Fault entry -/

theorem clearError_of_clear {s : State} (hs : s.errf = false) : s.clearError = s := by
  have herr := (errf_eq_false s).mp hs
  rcases clearError_cases s with ⟨_, h⟩ | ⟨_, h⟩ <;> rw [h]
  rw [← herr]

/-- A command or an illegal word that records a fault takes fault entry (R193), never with `ConfigurationError` (R107). -/
theorem CommandEffect.raised {s t : State} (h : CommandEffect s t) (hs : s.errf = false) (ht : t.errf = true) :
    ∃ e, e ≠ .configurationError ∧ t = s.raise e := by
  have hclear := (errf_eq_false s).mp hs
  have hrecorded := (errf_eq_true t).mp ht
  cases h with
  | keeps hk => exact absurd (hk.err.trans hclear) hrecorded
  | clearError => exact absurd ((congrArg State.err (clearError_of_clear hs)).trans hclear) hrecorded
  | raise e he => exact ⟨e, he, rfl⟩
  | output => exact absurd hclear hrecorded

/-- Settles O7: the state left is that of fault entry. -/
theorem faultEntryIsTheOnlyChange : Obligations.FaultEntryIsTheOnlyChange := by
  intro v s t hs h ht
  obtain ⟨e, _, rfl⟩ := (writeCommand_effect h).raised hs ht
  exact ⟨rfl, fun _ => rfl, rfl⟩

/-! ## While a fault is recorded -/

theorem commandWord_clrerr : commandWord .clrerr = 1 := rfl

/-- R194: every word but that of `CLRERR` is ignored, be it a command's or an illegal one. -/
theorem writeCommand_faulted {v : Block} {s : State} (hs : s.errf = true) (hv : v ≠ 1) :
    writeCommand v s = .next s := by
  rcases writeCommand_cases v s with ⟨i, hi, h⟩ | ⟨_, _, h⟩ <;> rw [h]
  · refine exec_faulted (fun hclr => hv ?_) hs
    rw [← commandWord_of_decode hi, hclr, commandWord_clrerr]
  · exact unlessFaulted_faulted hs

theorem runCommands_faulted {is : List Instr} {s : State} (hs : s.errf = true) (his : Instr.clrerr ∉ is) :
    runCommands is s = .next s := by
  induction is with
  | nil => rfl
  | cons i is ih =>
    rw [runCommands, exec_faulted (List.ne_of_not_mem_cons his).symm hs]
    exact ih (List.not_mem_of_not_mem_cons his)

/-- A host write inside the capacity writes the bytes, whatever `ERR` holds (R53). -/
theorem hostWrite_inside {a n : Nat} {bs : List Byte} (s : State) (hn : bs.length = n) :
    (a + n ≤ s.bufMax → hostWrite .ibuf a n bs s = .next { s with ibuf := bufferWriteBytes s.ibuf a bs }) ∧
    (a + n ≤ Config.kbufMax →
      hostWrite .kbuf a n bs s = .next { s with kbuf := bufferWriteBytes s.kbuf a bs }) := by
  constructor <;> intro hcap <;>
    rw [hostWrite, if_neg (not_not_intro hn), if_neg (by rw [State.capacity]; omega)]

theorem hostRead_inside {space : Space} {a n : Nat} {s : State} (h : a + n ≤ s.capacity space) :
    hostRead space a n s = .next { s with reply := .bytes (bufferReadBytes space (s.buffer space) a n) } := by
  rw [hostRead, if_neg (Nat.not_lt.mpr h)]

/-- Settles O8: the gate of every word but that of `CLRERR`; no other transaction looks at `ERR`. -/
theorem recordedFaultIgnoresEveryWord : Obligations.RecordedFaultIgnoresEveryWord :=
  ⟨fun _ _ => writeCommand_faulted, fun _ _ => runCommands_faulted, fun _ v s _ hn => perform_writeReg hn v s,
    fun _ _ _ => rfl, fun _ _ _ s _ hn => hostWrite_inside s hn, fun _ _ _ _ _ => hostRead_inside⟩

/-! ## The faults of each command -/

theorem RegisterEffect.err_clear_or_raisable {i : Instr} {s t : State} (h : RegisterEffect i s t)
    (hs : s.errf = false) : t.err = .clear ∨ t.err ∈ raisable i := by
  have hclear := (errf_eq_false s).mp hs
  cases h with
  | fault e he => exact .inr he
  | clrerr _ e he => exact .inl (he.elim id fun h => h.trans hclear)
  | _ => exact .inl hclear

/-- The command raises the fault in some state. -/
def Raises (i : Instr) (e : Err) : Prop := ∃ s : State, s.errf = false ∧ exec i s = .next (s.raise e)

theorem reset_errf : State.reset.errf = false := (errf_eq_false _).mpr resetErr_theTables

theorem raises_scheduleNotLoaded {i : Instr} (hi : needsSchedule i = true) : Raises i .scheduleNotLoaded :=
  ⟨State.reset, reset_errf, exec_unscheduled reset_errf hi rfl⟩

theorem ldkeyHex_raises_format : Raises .ldkeyHex .invalidKeyFormat := by
  refine ⟨withKeyText (List.replicate 16 0) State.reset, reset_errf, exec_ldkeyHex_format reset_errf rfl ?_⟩
  rw [kin_withKeyText]
  rfl

/-- The state after `Reset` with the round keys valid and an input ready. -/
def readyWith (bs : List Byte) : State := withInput bs { State.reset with rkv := true }

theorem readyWith_errf (bs : List Byte) : (readyWith bs).errf = false := reset_errf

theorem readyWith_input {bs : List Byte} (h : bs.length ≤ 64) : (readyWith bs).input = bs := input_withInput h

/-- A block of zeros ends in no count that `unpad8` accepts (R161). -/
theorem outputUnpadded_zeroBlock (s : State) : s.outputUnpadded (bytes8 0) = s.raise .malformedPad := rfl

theorem decryptStream_block (rk : Vector RoundKey 16) (x : Block) : decryptStream rk (bytes8 (desEnc rk x)) = bytes8 x := by
  have htake : (bytes8 (desEnc rk x)).take 8 = bytes8 (desEnc rk x) := List.take_of_length_le (bytes8_length _).le
  rw [decryptStream, bytes8_length, mapChunks, htake, be64_bytes8, desDec_desEnc]
  exact List.append_nil _

theorem unpad_raises_pad : Raises .unpad .malformedPad := by
  refine ⟨readyWith (bytes8 0), readyWith_errf _, ?_⟩
  rw [exec_unpad (readyWith_errf _), readyWith_input (by rw [bytes8_length]; decide), outputUnpadded_zeroBlock]

theorem decbytes_raises_pad : Raises .decbytes .malformedPad := by
  obtain ⟨bs, hlen, hdecrypt⟩ : ∃ bs, bs.length = 8 ∧ decryptStream State.reset.rk bs = bytes8 0 :=
    ⟨_, bytes8_length _, decryptStream_block _ 0⟩
  have hilen : (readyWith bs).ilen = 8 := congrArg (BitVec.ofNat 32) hlen
  have hrk : (readyWith bs).rk = State.reset.rk := rfl
  refine ⟨readyWith bs, readyWith_errf _, ?_⟩
  rw [exec_decbytes_blocks (readyWith_errf _) rfl (by rw [hilen]; rfl) (by rw [hilen]; decide),
    readyWith_input (by omega), hrk, hdecrypt, outputUnpadded_zeroBlock]

/-- Every fault of a command's row of R192 occurs, `ConfigurationError` aside. -/
theorem raises_of_raisable {i : Instr} {e : Err} (h : e ∈ raisable i) (he : e ≠ .configurationError) : Raises i e := by
  cases i <;> simp only [raisable, List.mem_cons, List.not_mem_nil, or_false] at h
  case tblchk => exact absurd h he
  case ldkeyHex =>
    rcases h with rfl | rfl
    · exact ⟨State.reset, reset_errf, exec_ldkeyHex_length reset_errf (by decide)⟩
    · exact ldkeyHex_raises_format
  case ldkeyRaw => exact h ▸ ⟨State.reset, reset_errf, exec_ldkeyRaw_length reset_errf (by decide)⟩
  case ksched => exact h ▸ ⟨State.reset, reset_errf, exec_ksched_unloaded reset_errf rfl⟩
  case round | encblk | decblk | encbytes => exact h ▸ raises_scheduleNotLoaded rfl
  case unpad =>
    rcases h with rfl | rfl | rfl
    · exact ⟨readyWith [0], readyWith_errf _, exec_unpad (readyWith_errf _)⟩
    · exact ⟨readyWith [], readyWith_errf _, exec_unpad (readyWith_errf _)⟩
    · exact unpad_raises_pad
  case decbytes =>
    rcases h with rfl | rfl | rfl | rfl
    · exact ⟨readyWith [0], readyWith_errf _, exec_decbytes_length (readyWith_errf _) rfl (by decide)⟩
    · exact ⟨readyWith [], readyWith_errf _, exec_decbytes_empty (readyWith_errf _) rfl rfl⟩
    · exact decbytes_raises_pad
    · exact raises_scheduleNotLoaded rfl

/-- The tables of this hardware without IP fail the check of R106. -/
theorem tablesValid_without_ip : tablesValid { theTables with ip := [] } = false := rfl

/-- Settles O9: the effects of a command name its faults, and each fault of a row has a state that raises it. -/
theorem eachCommandRaisesItsFaults : Obligations.EachCommandRaisesItsFaults :=
  ⟨fun _ _ _ hs h => (exec_registerEffect h).err_clear_or_raisable hs, fun _ _ => raises_of_raisable,
    _, State.reset, reset_errf, tableCheck_invalid tablesValid_without_ip State.reset⟩

/-! ## Priority -/

/-- A stream of whole chunks, not empty, can fail in its last byte only (R161). -/
theorem outputUnpadded_blocks_err {bs : List Byte} {s : State} (hs : s.errf = false) (hlen : bs.length % 8 = 0)
    (hne : bs.length ≠ 0) : (s.outputUnpadded bs).err = .clear ∨ (s.outputUnpadded bs).err = .malformedPad := by
  rw [State.outputUnpadded]
  by_cases hk : 1 ≤ (bs.getD (bs.length - 1) 0).toNat ∧ (bs.getD (bs.length - 1) 0).toNat ≤ 8
  · rw [unpad8_strips hlen hne hk.1 hk.2]
    exact .inl ((errf_eq_false s).mp hs)
  · rw [unpad8_pad hlen hne (by omega)]
    exact .inr rfl

/-- `LENGTH`, then `EMPTY`, then `PAD`, for `UNPAD` and for a `DECBYTES` that finds the schedule (R195 (4) to (6)). -/
theorem exec_unpadding_priority {i : Instr} {s : State} (hs : s.errf = false)
    (hi : i = .unpad ∨ i = .decbytes ∧ s.rkv = true) :
    (s.ilen.toNat % 8 ≠ 0 → exec i s = .next (s.raise .malformedLength)) ∧
    (s.ilen = 0 → exec i s = .next (s.raise .malformedEmpty)) ∧
    (s.ilen.toNat % 8 = 0 → s.ilen ≠ 0 → ∃ bs, bs.length = s.ilen.toNat ∧ exec i s = .next (s.outputUnpadded bs)) := by
  rcases hi with rfl | ⟨rfl, hr⟩
  · obtain ⟨-, hunpad⟩ := unpadStripsOrFaults
    obtain ⟨hlength, hempty, -⟩ := hunpad s hs
    exact ⟨hlength, hempty, fun _ _ => ⟨s.input, input_length s, exec_unpad hs⟩⟩
  · exact ⟨exec_decbytes_length hs hr, exec_decbytes_empty hs hr,
      fun hlen hne => ⟨_, decryptStream_input_length hlen, exec_decbytes_blocks hs hr hlen hne⟩⟩

/-- Settles O10, in the order of R195. -/
theorem faultPriority : Obligations.FaultPriority := by
  refine ⟨fun _ _ => writeCommand_faulted, fun v s hs hv => ?illegal, fun _ => exec_ksched_unloaded,
    fun _ _ => exec_unscheduled, fun i s hs hi => ?stream, fun _ => exec_ldkeyHex_length,
    fun s hs hlen hbad => exec_ldkeyHex_format hs hlen ((hexDigits_eq_none_iff _).mpr hbad)⟩
  case illegal =>
    obtain ⟨e, he⟩ := (wellFormed_eq_false_iff v).mp hv
    rw [writeCommand_illegal he]
    exact unlessFaulted_clear hs
  case stream =>
    obtain ⟨hlength, hempty, hblocks⟩ := exec_unpadding_priority hs hi
    refine ⟨hlength, hempty, fun hlen hne t ht => ?_⟩
    obtain ⟨bs, hbs, h⟩ := hblocks hlen hne
    cases h.symm.trans ht
    exact outputUnpadded_blocks_err hs (hbs ▸ hlen) (hbs ▸ fun h0 => hne (BitVec.eq_of_toNat_eq h0))

/-! ## No command reads `OLEN` or `OBUF` -/

/-- The state with another `OLEN` and another `OBUF`. -/
def withOutput (o : BitVec 32) (b : Buffer) (s : State) : State := { s with olen := o, obuf := b }

/-- What the body of a command writes outside `OLEN` and `OBUF` does not depend on them. -/
def IgnoresOutput (body : State → State) : Prop :=
  ∀ o b s, ∃ o' b', body (withOutput o b s) = withOutput o' b' (body s)

namespace IgnoresOutput

theorem raise (e : Err) : IgnoresOutput (State.raise e) := fun _ b _ => ⟨0, bufferVoid b, rfl⟩

theorem loadKey (k : Block) : IgnoresOutput (State.loadKey k) := fun o b _ => ⟨o, b, rfl⟩

theorem setResult {n : Nat} (v : BitVec n) : IgnoresOutput (State.setResult v) := fun o b _ => ⟨o, b, rfl⟩

theorem output (bs : List Byte) : IgnoresOutput (State.output bs) :=
  fun _ b _ => ⟨_, bufferWriteBytes (bufferVoid b) 0 bs, rfl⟩

/-- A test that ignores `OLEN` and `OBUF` between two bodies that do. -/
theorem ite {c : State → Prop} [DecidablePred c] {f g : State → State} (hc : ∀ o b s, c (withOutput o b s) ↔ c s)
    (hf : IgnoresOutput f) (hg : IgnoresOutput g) : IgnoresOutput fun s => if c s then f s else g s := by
  intro o b s
  by_cases h : c s
  · simp only [hc, if_pos h]
    exact hf o b s
  · simp only [hc, if_neg h]
    exact hg o b s

theorem withSchedule {body : State → State} (h : IgnoresOutput body) : IgnoresOutput (withSchedule body) :=
  .ite (fun _ _ _ => .rfl) h (.raise _)

theorem tableCheck (t : Tables) : IgnoresOutput (tableCheck t) :=
  .ite (fun _ _ _ => .rfl) (fun o b _ => ⟨o, b, rfl⟩) (.raise _)

theorem outputUnpadded (bs : List Byte) : IgnoresOutput (State.outputUnpadded bs) := by
  intro o b s
  simp only [State.outputUnpadded]
  cases unpad8 bs with
  | error e => exact raise e o b s
  | ok u => exact output u o b s

end IgnoresOutput

/-- Every command but `CLRERR` is a gated body that ignores `OLEN` and `OBUF`. -/
theorem exec_gated_ignoresOutput {i : Instr} (hi : i ≠ .clrerr) :
    ∃ body, IgnoresOutput body ∧ ∀ s, exec i s = unlessFaulted body s := by
  cases i
  case clrerr => exact absurd rfl hi
  all_goals refine ⟨_, ?_, fun s => by rw [exec]; rfl⟩
  case tblchk => exact .tableCheck theTables
  case permIp | permFp | permE | permP | permPc1 | permPc2 | subst =>
    exact fun o b s => IgnoresOutput.setResult _ o b s
  case ldkeyHex =>
    refine .ite (fun _ _ _ => .rfl) (.raise _) fun o b s => ?_
    have hkin : (withOutput o b s).kin = s.kin := rfl
    simp only [hkin]
    cases hexDigits s.kin with
    | none => exact IgnoresOutput.raise _ o b s
    | some ds => exact IgnoresOutput.loadKey _ o b s
  case ldkeyRaw => exact .ite (fun _ _ _ => .rfl) (.raise _) fun o b s => IgnoresOutput.loadKey (be64 s.kin) o b s
  case ksched => exact .ite (fun _ _ _ => .rfl) (fun o b _ => ⟨o, b, rfl⟩) (.raise _)
  case split | swap | join => exact fun o b _ => ⟨o, b, rfl⟩
  case round | encblk | decblk => exact .withSchedule fun o b _ => ⟨o, b, rfl⟩
  case pad => exact fun o b s => IgnoresOutput.output (pad8 s.input) o b s
  case unpad => exact fun o b s => IgnoresOutput.outputUnpadded s.input o b s
  case encbytes => exact .withSchedule fun o b s => IgnoresOutput.output (encryptStream s.rk s.input) o b s
  case decbytes =>
    refine .withSchedule (.ite (fun _ _ _ => .rfl) (.raise _) (.ite (fun _ _ _ => .rfl) (.raise _) ?_))
    exact fun o b s => IgnoresOutput.outputUnpadded (decryptStream s.rk s.input) o b s

/-! ## Clearing a fault -/

theorem writeReg_err (v : Block) (s : State) (reg : Reg) : (s.writeReg v reg).err = s.err := by
  cases reg <;> rw [State.writeReg]
  case klen | ilen => split <;> rfl

/-- R196: under a recorded fault `Reset` and the word of `CLRERR` are the only transactions that change `ERR`. -/
theorem perform_faulted_err {x : Transaction} {s u : State} (hs : s.errf = true) (h : perform x s = .next u) :
    x = .reset ∨ x = .writeReg 0x20 1 ∨ u.err = s.err := by
  cases x with
  | reset => exact .inl rfl
  | writeReg n v =>
    refine .inr ?_
    by_cases hn : n = 0x20
    · subst hn
      by_cases hv : v = 1
      · exact .inl (hv ▸ rfl)
      · cases (writeCommand_faulted hs hv).symm.trans h
        exact .inr rfl
    · cases (perform_writeReg hn v s).symm.trans h
      exact .inr (writeReg_err v s _)
  | readReg n => cases h; exact .inr (.inr rfl)
  | memWrite space a n bs =>
    rcases hostWrite_cases space a n bs s with ⟨_, e⟩ | ⟨_, _, e⟩ | ⟨_, _, ⟨_, e⟩ | ⟨_, e⟩ | ⟨_, e⟩⟩ <;>
      cases e.symm.trans h <;> exact .inr (.inr rfl)
  | memRead space a n =>
    rcases hostRead_cases space a n s with ⟨_, e⟩ | ⟨_, e⟩ <;> cases e.symm.trans h
    exact .inr (.inr rfl)

theorem perform_clrerr (s : State) : perform (.writeReg 0x20 1) s = exec .clrerr s := perform_commandLine .clrerr s

theorem resetErr_code (tables : Tables) : (resetErr tables).code = if tablesValid tables = true then 0 else 4 := by
  rw [resetErr]
  split <;> rfl

theorem exec_faulted_err {i : Instr} {s t : State} (hs : s.errf = true) (h : exec i s = .next t) :
    t.err = s.err ∨ t.errf = false := by
  rcases exec_cases h with ⟨_, rfl⟩ | ⟨_, rfl⟩ | ⟨hs', _⟩
  · rcases clearError_cases s with ⟨_, h⟩ | ⟨_, h⟩ <;> rw [h]
    · exact .inl rfl
    · exact .inr rfl
  · exact .inl rfl
  · exact absurd (hs'.symm.trans hs) nofun

/-- `CLRERR` after fault entry gives back the state before the command, but for `OLEN` and `OBUF` (R196). -/
theorem exec_clrerr_raise {s : State} (hs : s.errf = false) {e : Err} (he : e ≠ .configurationError) :
    exec .clrerr (s.raise e) = .next (withOutput 0 (bufferVoid s.obuf) s) := by
  rw [exec_clrerr_clears fun hcode => he ((code_eq_four e).mp hcode), ← (errf_eq_false s).mp hs]
  rfl

/-- A command issued again with another `OLEN` and `OBUF` leaves the same `ERR`. -/
theorem exec_withOutput_err {i : Instr} {s t : State} (hs : s.errf = false) (h : exec i s = .next t) (o : BitVec 32)
    (b : Buffer) : ∃ u, exec i (withOutput o b s) = .next u ∧ u.err = t.err := by
  by_cases hi : i = .clrerr
  · subst hi
    cases h
    refine ⟨_, exec_clrerr _, ?_⟩
    rw [clearError_of_clear hs, clearError_of_clear (s := withOutput o b s) hs]
    rfl
  · obtain ⟨body, hbody, hexec⟩ := exec_gated_ignoresOutput hi
    obtain ⟨o', b', hcomm⟩ := hbody o b s
    rw [hexec, unlessFaulted_clear hs] at h
    cases h
    rw [hexec, unlessFaulted_clear (s := withOutput o b s) hs, hcomm]
    exact ⟨_, rfl, rfl⟩

/-- Settles O12: only `Reset` and `CLRERR` change a recorded `ERR`, and clearing a fault gives back all that the command reads. -/
theorem faultClearedAndReissued : Obligations.FaultClearedAndReissued := by
  refine ⟨fun x s u hs h hu => ?onlyTwo, fun s hcode => ⟨_, (perform_clrerr s).trans (exec_clrerr_clears hcode), rfl⟩,
    fun s hcode => (perform_clrerr s).trans (exec_clrerr_leaves hcode), fun tables _ => resetErr_code tables,
    fun _ _ _ => exec_faulted_err, fun i s t hs h ht => ?reissued⟩
  case onlyTwo =>
    rcases perform_faulted_err hs h with hreset | hclr | hkept
    · exact .inl hreset
    · exact .inr hclr
    · exact absurd (hkept ▸ (errf_eq_false u).mp hu) ((errf_eq_true s).mp hs)
  case reissued =>
    obtain ⟨e, he, rfl⟩ := (exec_effect h).raised hs ht
    obtain ⟨u', hagain, herr⟩ := exec_withOutput_err hs h 0 (bufferVoid s.obuf)
    exact ⟨_, u', exec_clrerr_raise hs he, rfl, hagain, herr⟩

end Sys2Proof

/-! # The schedule after a key load

`RK`, `C` and `D` have one writer, `KSCHED`, so a key load leaves them in both of its outcomes. The success clears `RKV`, which every
command that needs the schedule tests first; the failure is a fault entry, and `CLRERR` gives back the state before it but for
`OLEN` and `OBUF`. -/

namespace Sys2Proof

open Machine

/-- R20: a command other than `KSCHED` leaves the round keys and the halves. -/
theorem RegisterEffect.schedule_kept {i : Instr} {s t : State} (h : RegisterEffect i s t) (hi : i ≠ .ksched) :
    t.rk = s.rk ∧ t.c = s.c ∧ t.d = s.d := by
  cases h with
  | schedule hksched => exact absurd hksched hi
  | _ => exact ⟨rfl, rfl, rfl⟩

/-- Settles O29: a load that succeeds leaves the schedule in place but not valid, and a load that fails is a fault entry. -/
theorem staleScheduleIsNeverUsed : Obligations.StaleScheduleIsNeverUsed := by
  intro i s t hi hs h
  have hload := exec_registerEffect h
  refine ⟨hload.schedule_kept ?notKsched, fun ht => ?succeeds, fun ht => ?fails⟩
  case notKsched => rcases hi with rfl | rfl <;> decide
  case succeeds =>
    obtain ⟨-, hrkv⟩ := hload.ldkey_succeeds hi hs ht
    exact ⟨hrkv, fun j hj => exec_unscheduled ht hj hrkv⟩
  case fails =>
    obtain ⟨e, he, rfl⟩ := (exec_effect h).raised hs ht
    exact ⟨rfl, rfl, rfl, _, exec_clrerr_raise hs he, hs, rfl, rfl, rfl, rfl⟩

end Sys2Proof
